-- ==== Sys2Proof/Word.lean ====
section
/-! DEFINITION. The two word types of the block (00_scope.md R9, R11, R21). -/

namespace Sys2Proof

/-- One byte of a byte string or of BUF (00_scope.md R11). -/
abbrev Byte := BitVec 8

/-- One 32-bit register or SHA-256 word (00_scope.md R9, R21). -/
abbrev Word := BitVec 32

end Sys2Proof
end

