-- ==== Sys2Proof/Config.lean ====
section
/-! DEFINITION. The parameters of a block, its fixed sizes, and the free values of the spec (00_scope.md R6, R7;
93_implementation_defined.md U1, U2, U5, U6, U7). -/

namespace Sys2Proof

/-- The open parameters of 00_scope.md R7. A State carries one `Config`, and no step changes it (log 1). -/
structure Config where
  /-- BUF_BYTES: the size of the buffer memory in bytes (U6). -/
  bufBytes : Nat
  /-- HOST_ORDER: one host's accesses arrive in that host's program order (U7). -/
  hostOrder : Bool
  /-- BLOCK_BASE: the platform address of aperture offset 0x0000 (U5). -/
  blockBase : Nat
deriving DecidableEq, Repr

/-- The block that `State.reset` describes: BUF_BYTES = 4096 as in the spec's own examples, HOST_ORDER true as the
spec's default, BLOCK_BASE = 0. DESIGN CHOICE (log 1). -/
def Config.standard : Config := ⟨4096, true, 0⟩

/-- KEY_MAX, the longest key in bytes (00_scope.md R6). -/
def keyMax : Nat := 64

/-- The smallest base (00_scope.md R6). -/
def baseMin : Nat := 2

/-- BASE_MAX (00_scope.md R6). -/
def baseMax : Nat := 65536

/-- The size of the aperture in bytes (00_scope.md R6, 20_memory.md R60). -/
def apertureBytes : Nat := 0x10000

/-- The end of the register range: offsets 0x0000 to 0x0037 (20_memory.md R60). -/
def registerBytes : Nat := 0x38

/-- The aperture offset of BUF byte 0 (00_scope.md R6, 20_memory.md R60). -/
def bufWindow : Nat := 0x8000

/-- The value of ID (10_state.md R22). -/
def idWord : Word := 0x43504301

/-- The value of PARAM for a block of `c.bufBytes` bytes (10_state.md R21, R23). -/
def Config.paramWord (c : Config) : Word := BitVec.ofNat 32 (0x00400000 + c.bufBytes)

/-- The byte that BUF address `a` holds after the reset event number `k`, until something writes it: a FREE VALUE with no
body (70_reset_and_hazards.md R261, U1, U17; log 2). -/
opaque Config.resetByte (k a : Nat) : Byte

/-- The byte that the `n`-th byte-read of BUF during a busy interval returns: a FREE VALUE with no body
(40_control.md R123, U2; log 3). -/
opaque Config.busyByte (n : Nat) : Byte

end Sys2Proof
end

