-- ==== Sys2Proof/Syntax.lean ====
section
/-! DEFINITION. The commands of the block, and the host side's transactions, programs and turns
(30_encoding.md R91, R97, R98; 20_memory.md R71). -/

namespace Sys2Proof

/-- The commands, one for each row of the opcode map (30_encoding.md R91). A command word carries no operands: they are
in registers (R94). -/
inductive Instr where
  | nop
  | crc32
  | feistelFwd
  | feistelInv
  | prf
  | radixB2d
  | radixD2b
  | radixDcount
deriving DecidableEq, Repr

/-- The fourteen registers of 10_state.md R21, in the order of their offsets. -/
inductive Reg where
  | id
  | param
  | ctrl
  | status
  | cmd
  | src
  | dst
  | len
  | xlen
  | kaddr
  | klen
  | base
  | rounds
  | result
deriving DecidableEq, Repr

/-- The six kinds of bus transaction (30_encoding.md R97). -/
inductive BusOp where
  | rd8
  | rd16
  | rd32
  | wr8 (v : BitVec 8)
  | wr16 (v : BitVec 16)
  | wr32 (v : BitVec 32)
deriving DecidableEq, Repr

/-- One host access: a transaction at a platform address (30_encoding.md R99, 20_memory.md R60). -/
structure Access where
  /-- The platform address: BLOCK_BASE + offset for an access to this block. -/
  addr : Nat
  op : BusOp
deriving DecidableEq, Repr

/-- One item of a host's program. -/
inductive HostItem where
  /-- One bus transaction (30_encoding.md R97). -/
  | access (a : Access)
  /-- The `wait` loop: read STATUS, and again while bit 0 of the value read is 1 (30_encoding.md R98). -/
  | wait
  /-- Wait until IRQ is asserted (70_reset_and_hazards.md R263). -/
  | waitIrq
  /-- The platform's device barrier (20_memory.md R72, 70_reset_and_hazards.md R267). -/
  | barrier
deriving DecidableEq, Repr

/-- One turn: which agent moves next (10_state.md R20, 20_memory.md R71, 70_reset_and_hazards.md R260). -/
inductive Turn where
  /-- Host `h` moves: the item `k` places into its program is next to reach the block. -/
  | host (h k : Nat)
  /-- The engine moves, if it can. -/
  | engine
  /-- The platform asserts reset. -/
  | reset
deriving DecidableEq, Repr

end Sys2Proof
end

