-- ==== Sys2Proof/WellFormed.lean ====
section
/-! DEFINITION. Which terms are well formed: commands, block parameters, accesses and turns. -/

namespace Sys2Proof

/-- BUF_BYTES is a multiple of 4 with 1024 ≤ BUF_BYTES ≤ 32768; HOST_ORDER and BLOCK_BASE are unconstrained
(00_scope.md R7). -/
def Config.wf (c : Config) : Bool :=
  c.bufBytes % 4 == 0 && decide (1024 ≤ c.bufBytes) && decide (c.bufBytes ≤ 32768)

/-- A command has no operands (30_encoding.md R94, R95), so every command is well formed. -/
def Instr.wellFormed : Instr → Bool
  | .nop => true
  | .crc32 => true
  | .feistelFwd => true
  | .feistelInv => true
  | .prf => true
  | .radixB2d => true
  | .radixD2b => true
  | .radixDcount => true

/-- The access is addressed to this block: its address lies in the aperture (20_memory.md R60). -/
def Access.wellFormed (c : Config) (a : Access) : Bool :=
  decide (c.blockBase ≤ a.addr) && decide (a.addr < c.blockBase + apertureBytes)

/-- A turn a platform with this HOST_ORDER can take: where it is true, only the oldest item of a program is next
(20_memory.md R72). -/
def Turn.wellFormed (c : Config) : Turn → Bool
  | .host _ k => !c.hostOrder || k == 0
  | .engine => true
  | .reset => true

end Sys2Proof
end

