-- ==== Sys2Proof/Decode.lean ====
section
/-! DEFINITION. Decoding and encoding of the command word (30_encoding.md R90 to R93). -/

namespace Sys2Proof

/-- Why a word is no command (30_encoding.md R93). Either way the command completes with ILLEGAL_CMD. -/
inductive IllegalWord where
  /-- RSV is not 0. -/
  | reservedBits
  /-- RSV is 0 and no row of R91 has this opcode. -/
  | unassignedOpcode
deriving DecidableEq, Repr

/-- RSV, bits [31:8] of a command word (R90). -/
def rsvField (w : Word) : BitVec 24 := w.extractLsb' 8 24

/-- OPC, bits [7:0] of a command word (R90). -/
def opcField (w : Word) : BitVec 8 := w.extractLsb' 0 8

/-- `decode(w)` of R92, total on every 32-bit word. -/
def decode (w : Word) : Except IllegalWord Instr :=
  if rsvField w ≠ 0 then .error .reservedBits
  else if opcField w = 0x00 then .ok .nop
  else if opcField w = 0x10 then .ok .crc32
  else if opcField w = 0x20 then .ok .feistelFwd
  else if opcField w = 0x21 then .ok .feistelInv
  else if opcField w = 0x22 then .ok .prf
  else if opcField w = 0x30 then .ok .radixB2d
  else if opcField w = 0x31 then .ok .radixD2b
  else if opcField w = 0x32 then .ok .radixDcount
  else .error .unassignedOpcode

/-- The UNIT field of a command (R90, R91): 0 control, 1 CRC-32, 2 keyed permutation, 3 radix converter. -/
def Instr.unit : Instr → BitVec 4
  | .nop => 0
  | .crc32 => 1
  | .feistelFwd => 2
  | .feistelInv => 2
  | .prf => 2
  | .radixB2d => 3
  | .radixD2b => 3
  | .radixDcount => 3

/-- The FN field of a command (R90, R91). -/
def Instr.fn : Instr → BitVec 4
  | .nop => 0
  | .crc32 => 0
  | .feistelFwd => 0
  | .feistelInv => 1
  | .prf => 2
  | .radixB2d => 0
  | .radixD2b => 1
  | .radixDcount => 2

/-- The word of a command: RSV = 0, then UNIT, then FN (R90). -/
def encode (i : Instr) : Word := (0 : BitVec 24) ++ (i.unit ++ i.fn)

/-- What the decoder reads from a word of `nbits` bits; a command is one word, so nothing follows it (R90). -/
def decodeTableWord (nbits w : Nat) : Option Instr :=
  match decode (BitVec.ofNat 32 (w % 2 ^ nbits)) with
  | .ok i => some i
  | .error _ => none

end Sys2Proof
end

