-- ==== Sys2Proof/Machine/Bytes.lean ====
section
/-! DEFINITION. Byte strings, their encoders and the numbers they stand for (00_scope.md R11, R12, R17). -/

namespace Sys2Proof.Machine

/-- `zeros(n)` (R11). -/
def zeros (n : Nat) : List Byte := List.replicate n 0

/-- `BE32(v)` (R12). -/
def be32 (v : Word) : List Byte :=
  [v.extractLsb' 24 8, v.extractLsb' 16 8, v.extractLsb' 8 8, v.extractLsb' 0 8]

/-- `BE64(v)`, the 8-byte big-endian encoding of `v` (43_prp.md R190). -/
def be64 (v : Nat) : List Byte := be32 (BitVec.ofNat 32 (v / 2 ^ 32)) ++ be32 (BitVec.ofNat 32 v)

/-- `LE16(v)` (R12). -/
def le16 (v : Nat) : List Byte := [BitVec.ofNat 8 v, BitVec.ofNat 8 (v / 256)]

/-- The low `n` bytes of `v`, least significant first: byte `k` is v[8k+7:8k] (R12, 20_memory.md R62). -/
def leBytes (v : Nat) : Nat → List Byte
  | 0 => []
  | n + 1 => BitVec.ofNat 8 v :: leBytes (v / 256) n

/-- The number a little-endian byte string stands for (20_memory.md R62). -/
def numLe : List Byte → Nat
  | [] => 0
  | b :: s => b.toNat + 256 * numLe s

/-- The number a digit vector stands for in base `B`, most significant digit first: `num_B(d)` (R17). -/
def numBase (B : Nat) (d : List Nat) : Nat := d.foldl (fun v x => v * B + x) 0

/-- `num_be(s)` (R12): a byte string as a base-256 numeral. -/
def numBe (s : List Byte) : Nat := numBase 256 (s.map BitVec.toNat)

/-- The `n` lowest digits of `v` in base `B`, most significant first: digit `i` is (v div B^(n-1-i)) mod B
(42_radix.md R162). -/
def digitsOf (B v n : Nat) : List Nat := (List.range n).map fun i => v / B ^ (n - 1 - i) % B

/-- `bytes_be(v, n)` for v < 256^n (R12). -/
def bytesBe (v n : Nat) : List Byte := (digitsOf 256 v n).map (BitVec.ofNat 8)

end Sys2Proof.Machine
end

