-- ==== Sys2Proof/Machine/State.lean ====
section
/-! DEFINITION. The state of the block and of its surroundings, as plain data (10_state.md R37). -/

namespace Sys2Proof.Machine

/-- The engine's state (10_state.md R32). -/
inductive Phase where
  | idle
  | busy
deriving DecidableEq, Repr

/-- Why the block refuses a host access, the three causes of 60_exceptions.md R233. -/
inductive BusCause where
  /-- Cause (1): an unmapped offset. -/
  | unmapped
  /-- Cause (2): a register access that is not 32 bits wide or not at a multiple of 4. -/
  | registerAccess
  /-- Cause (3): a BUF access that is misaligned or runs past BUF_BYTES. -/
  | bufAccess
deriving DecidableEq, Repr

/-- The codes of the commands that fail (60_exceptions.md R230). -/
inductive ErrorCode where
  | illegalCmd
  | badBase
  | badRounds
  | badKeyLen
  | srcRange
  | dstRange
  | keyRange
  | digitRange
  | overflow
deriving DecidableEq, Repr

/-- Why the machine's run ends. -/
inductive Fault where
  /-- Raised by `step` when nothing can move any more and the block refused an access of `host`: that host's run ended
  with this fault recorded (20_memory.md R63, U4; log 8). Safe: the spec gives no event after it. -/
  | busError (host : Nat) (cause : BusCause)
deriving DecidableEq, Repr

/-- Why an instruction has no meaning. -/
inductive Refusal where
  /-- Raised by an arm of `exec` for an instruction without a meaning; no arm does. Safe: the run stops. -/
  | notModelled (mnemonic : String)
deriving DecidableEq, Repr

/-- The block's reply to one host access. -/
inductive Reply where
  /-- The write was accepted on the bus. -/
  | written
  /-- The value read, zero-extended to 32 bits. -/
  | data (v : Word)
  /-- The access was refused (20_memory.md R63). -/
  | busError (cause : BusCause)
deriving DecidableEq, Repr

/-- One served host access (30_encoding.md R99). -/
structure Transaction where
  host : Nat
  access : Access
  reply : Reply
deriving DecidableEq, Repr

/-- A byte store: the bytes written since it was last emptied, by address. -/
abbrev Memory := List Host.Cell

/-- The whole machine. The fields from `ie` to `phase` are the block's state of 10_state.md R37; `buf` is its BUF; the
rest are the model's own (INVENTORY.md). -/
structure State where
  /-- CTRL.IE (R24). -/
  ie : Bool
  /-- STATUS.BUSY (R25). -/
  busy : Bool
  /-- STATUS.DONE (R25). -/
  done : Bool
  /-- STATUS.ERR (R25). -/
  err : Bool
  /-- STATUS.DROP (R25). -/
  drop : Bool
  /-- STATUS.ERRCODE (R25). -/
  errcode : BitVec 8
  /-- CMD (R27). -/
  cmd : Word
  /-- SRC (R28). -/
  src : Word
  /-- DST (R28). -/
  dst : Word
  /-- LEN (R28). -/
  len : Word
  /-- XLEN (R28). -/
  xlen : Word
  /-- KADDR (R28). -/
  kaddr : Word
  /-- KLEN (R28). -/
  klen : Word
  /-- BASE (R28). -/
  base : Word
  /-- ROUNDS (R28). -/
  rounds : Word
  /-- RESULT (R29). -/
  result : Word
  /-- The engine's hidden state (R32). -/
  phase : Phase
  /-- The bytes of BUF written since the last reset; every other byte of BUF is free (R31, R261; log 2, log 4). -/
  buf : Memory
  /-- The parameters of this block (00_scope.md R7; log 1). -/
  cfg : Config
  /-- The number of the reset event that drew BUF (log 2). -/
  resets : Nat
  /-- The free bytes drawn so far by reads of BUF while busy (log 3). -/
  draws : Nat
  /-- What each host has still to do, in its program order (log 7). -/
  programs : List (List HostItem)
  /-- The turns still to come (log 5). -/
  schedule : List Turn
  /-- The accesses served, newest first (log 8). -/
  trace : List Transaction
deriving DecidableEq, Repr

/-- A block with parameters `c` right after its first reset, with no host program loaded (70_reset_and_hazards.md R260,
R261). -/
def State.resetOf (c : Config) : State where
  ie := false
  busy := false
  done := false
  err := false
  drop := false
  errcode := 0
  cmd := 0
  src := 0
  dst := 0
  len := 0
  xlen := 0
  kaddr := 0
  klen := 0
  base := 0
  rounds := 0
  result := 0
  phase := .idle
  buf := []
  cfg := c
  resets := 0
  draws := 0
  programs := []
  schedule := []
  trace := []

/-- The machine right after reset (70_reset_and_hazards.md R260). -/
def State.reset : State := State.resetOf Config.standard

end Sys2Proof.Machine
end

