-- ==== Sys2Proof/Machine/Flags.lean ====
section
/-! DEFINITION. CTRL, STATUS and IRQ: their fields, their words and every event that writes them (10_state.md R24 to R26,
R34, R35; 40_control.md R120, R121, R124). -/

namespace Sys2Proof.Machine

/-- The 8-bit code of an error (60_exceptions.md R230). -/
def ErrorCode.code : ErrorCode → BitVec 8
  | .illegalCmd => 0x01
  | .badBase => 0x02
  | .badRounds => 0x03
  | .badKeyLen => 0x04
  | .srcRange => 0x05
  | .dstRange => 0x06
  | .keyRange => 0x07
  | .digitRange => 0x08
  | .overflow => 0x09

/-- The word of CTRL: IE in bit 0, the reserved bits 0 (10_state.md R24). -/
def State.ctrlWord (s : State) : Word := BitVec.ofNat 32 s.ie.toNat

/-- The word of STATUS: BUSY, DONE, ERR, DROP in bits 0 to 3, ERRCODE in bits [15:8], the reserved bits 0
(10_state.md R25). -/
def State.statusWord (s : State) : Word :=
  BitVec.ofNat 32
    (s.busy.toNat + 2 * s.done.toNat + 4 * s.err.toNat + 8 * s.drop.toNat + 256 * s.errcode.toNat)

/-- The interrupt output: IRQ = CTRL.IE ∧ STATUS.DONE (10_state.md R34). -/
def State.irq (s : State) : Bool := s.ie && s.done

/-- A host write of `v` to CTRL (10_state.md R24). -/
def State.writeCtrl (s : State) (v : Word) : State := { s with ie := v.getLsbD 0 }

/-- A host write of `v` to STATUS: bits 1, 2 and 3 clear DONE, ERR and DROP (10_state.md R26). -/
def State.writeStatus (s : State) (v : Word) : State :=
  { s with
    done := s.done && !v.getLsbD 1
    err := s.err && !v.getLsbD 2
    drop := s.drop && !v.getLsbD 3 }

/-- A host write that meets a busy block is dropped (40_control.md R121). -/
def State.setDrop (s : State) : State := { s with drop := true }

/-- The accept of the command word `v` (40_control.md R120). -/
def State.accept (s : State) (v : Word) : State :=
  { s with cmd := v, busy := true, done := false, err := false, errcode := 0x00, phase := .busy }

/-- The STATUS and phase updates of a completion with code `code` (40_control.md R124). -/
def State.finish (s : State) (code : BitVec 8) : State :=
  { s with busy := false, phase := .idle, done := true, err := code != 0x00, errcode := code }

end Sys2Proof.Machine
end

