-- ==== Sys2Proof/Machine/Memory.lean ====
section
/-! DEFINITION. The byte store that holds BUF: one cell for each byte written since the last reset, addresses strictly
rising (10_state.md R31, 70_reset_and_hazards.md R261; log 4). -/

namespace Sys2Proof.Machine

/-- What the store holds at `a`; `none` for a byte nothing has written, which is what an unlisted address reads as. -/
def Memory.lookup : Memory → Nat → Option Byte
  | [], _ => none
  | (x, b) :: m, a => if a = x then some b else Memory.lookup m a

/-- The store with byte `b` at `a`, addresses still rising. -/
def Memory.insert : Memory → Nat → Byte → Memory
  | [], a, b => [(a, b)]
  | (x, y) :: m, a, b =>
    if a < x then (a, b) :: (x, y) :: m
    else if a = x then (a, b) :: m
    else (x, y) :: Memory.insert m a b

/-- The store with the bytes `bs` from address `a` on. -/
def Memory.writeBytes : Memory → Nat → List Byte → Memory
  | m, _, [] => m
  | m, a, b :: bs => Memory.writeBytes (Memory.insert m a b) (a + 1) bs

/-- Every address of `m` is at least `lo`, and the addresses rise strictly. -/
def Memory.risingFrom : Nat → Memory → Bool
  | _, [] => true
  | lo, (x, _) :: m => decide (lo ≤ x) && Memory.risingFrom (x + 1) m

/-- The one canonical form: addresses rise strictly. An entry is always a written byte, so none equals what an unlisted
address reads as (log 4). -/
def Memory.wf (m : Memory) : Bool := Memory.risingFrom 0 m

/-- Every address of `m` is below `n`. -/
def Memory.below (n : Nat) (m : Memory) : Bool := m.all fun c => decide (c.1 < n)

end Sys2Proof.Machine
end

