-- ==== Sys2Proof/Machine/Ops.lean ====
section
/-! DEFINITION. The named operations over BUF and the registers, and the events of the block: completion, the error report
(its form of taking an exception), the acknowledge beside it, and reset. -/

namespace Sys2Proof

/-- The operand registers (10_state.md R28). -/
def Reg.isOperand : Reg → Bool
  | .id => false
  | .param => false
  | .ctrl => false
  | .status => false
  | .cmd => false
  | .src => true
  | .dst => true
  | .len => true
  | .xlen => true
  | .kaddr => true
  | .klen => true
  | .base => true
  | .rounds => true
  | .result => false

end Sys2Proof

namespace Sys2Proof.Machine

/-! ### BUF -/

/-- The byte of BUF at address `a`: the byte written there since the last reset, or the free value of that reset
(10_state.md R31, 70_reset_and_hazards.md R261). -/
def State.bufByte (s : State) (a : Nat) : Byte := (s.buf.lookup a).getD (Config.resetByte s.resets a)

/-- `MemRead(a, n)` (00_scope.md R14). -/
def State.memRead (s : State) (a n : Nat) : List Byte := (List.range n).map fun i => s.bufByte (a + i)

/-- `MemRead16(a)` (00_scope.md R14). -/
def State.memRead16 (s : State) (a : Nat) : Nat := (s.bufByte a).toNat + 256 * (s.bufByte (a + 1)).toNat

/-- The `m` digits stored from address `a` on, digit `i` at a + 2i (42_radix.md R161). -/
def State.readDigits (s : State) (a m : Nat) : List Nat := (List.range m).map fun i => s.memRead16 (a + 2 * i)

/-- BUF with the bytes `bs` stored from address `a` on. -/
def State.storeBytes (s : State) (a : Nat) (bs : List Byte) : State := { s with buf := s.buf.writeBytes a bs }

/-! ### Completion (40_control.md R124) -/

/-- One recorded `MemWrite` (00_scope.md R14). -/
structure MemWrite where
  addr : Nat
  bytes : List Byte
deriving DecidableEq, Repr

/-- What running a command gives (40_control.md R124). -/
inductive RunOutcome where
  /-- Success, with the recorded writes in order and the value for RESULT, if the command writes one. -/
  | ok (writes : List MemWrite) (res : Option Word)
  /-- `raise CmdError(c)` (00_scope.md R15). -/
  | err (c : ErrorCode)
deriving DecidableEq, Repr

/-- The recorded writes applied in order (40_control.md R124). -/
def State.applyWrites (s : State) : List MemWrite → State
  | [] => s
  | w :: ws => (s.storeBytes w.addr w.bytes).applyWrites ws

/-- RESULT takes the command's value; a command without one leaves it (40_control.md R124, R128). -/
def State.setResult (s : State) (res : Option Word) : State := { s with result := res.getD s.result }

/-- The error report with code `c`, the block's form of taking an exception: no BUF byte and no RESULT is written, and
nothing is saved but the code (60_exceptions.md R231). -/
def State.reportError (s : State) (c : ErrorCode) : State := s.finish c.code

/-- The host's acknowledge, the block's nearest thing to a return from an exception: the STATUS write that clears DONE,
ERR and DROP (60_exceptions.md R236, 30_encoding.md R98). -/
def State.acknowledge (s : State) : State := s.writeStatus 0x0000000E

/-- The completion event with the outcome `r` (40_control.md R124). -/
def State.complete (s : State) : RunOutcome → State
  | .ok ws res => ((s.applyWrites ws).setResult res).finish 0x00
  | .err c => s.reportError c

/-! ### Registers (10_state.md R21 to R29) -/

/-- `x[r]`: the value a 32-bit read of the register returns (10_state.md R21; while busy too, 40_control.md R123). -/
def State.readReg (s : State) : Reg → Word
  | .id => idWord
  | .param => s.cfg.paramWord
  | .ctrl => s.ctrlWord
  | .status => s.statusWord
  | .cmd => s.cmd
  | .src => s.src
  | .dst => s.dst
  | .len => s.len
  | .xlen => s.xlen
  | .kaddr => s.kaddr
  | .klen => s.klen
  | .base => s.base
  | .rounds => s.rounds
  | .result => s.result

/-- `x[r] <- v` for an operand register; any other register is left alone (10_state.md R28). -/
def State.setOperand (s : State) (r : Reg) (v : Word) : State :=
  match r with
  | .id => s
  | .param => s
  | .ctrl => s
  | .status => s
  | .cmd => s
  | .src => { s with src := v }
  | .dst => { s with dst := v }
  | .len => { s with len := v }
  | .xlen => { s with xlen := v }
  | .kaddr => { s with kaddr := v }
  | .klen => { s with klen := v }
  | .base => { s with base := v }
  | .rounds => { s with rounds := v }
  | .result => s

/-- An accepted 32-bit host write of `v` to the register `r`: ID, PARAM and RESULT ignore it (R22, R23, R29); CTRL and
STATUS take it at all times (R24, R26); CMD and the operand registers take it while BUSY = 0 and drop it while BUSY = 1
(R27, R28; 40_control.md R120, R121, R122). -/
def State.writeReg (s : State) (r : Reg) (v : Word) : State :=
  match r with
  | .id => s
  | .param => s
  | .result => s
  | .ctrl => s.writeCtrl v
  | .status => s.writeStatus v
  | .cmd => if s.busy then s.setDrop else s.accept v
  | .src => if s.busy then s.setDrop else s.setOperand .src v
  | .dst => if s.busy then s.setDrop else s.setOperand .dst v
  | .len => if s.busy then s.setDrop else s.setOperand .len v
  | .xlen => if s.busy then s.setDrop else s.setOperand .xlen v
  | .kaddr => if s.busy then s.setDrop else s.setOperand .kaddr v
  | .klen => if s.busy then s.setDrop else s.setOperand .klen v
  | .base => if s.busy then s.setDrop else s.setOperand .base v
  | .rounds => if s.busy then s.setDrop else s.setOperand .rounds v

/-! ### Reset (70_reset_and_hazards.md R260, R261) -/

/-- The reset event: every register of the block at its reset value, the engine Idle, BUF drawn afresh. The parameters,
the hosts, the turns and the record of past accesses are not the block's state and stay (log 11). -/
def State.resetEvent (s : State) : State :=
  { State.resetOf s.cfg with
    resets := s.resets + 1
    draws := s.draws
    programs := s.programs
    schedule := s.schedule
    trace := s.trace }

end Sys2Proof.Machine
end

