-- ==== Sys2Proof/Machine/RadixFunction.lean ====
section
/-! DEFINITION. The digit count and the two radix conversions (42_radix.md R160 to R164). -/

namespace Sys2Proof.Machine

/-- The least d in [lo, hi] with B^d ≥ v, by halving the range at most `fuel` times. -/
def leastExponent (B v : Nat) : Nat → Nat → Nat → Nat
  | 0, lo, _ => lo
  | fuel + 1, lo, hi =>
    if lo < hi then
      if v ≤ B ^ ((lo + hi) / 2) then leastExponent B v fuel lo ((lo + hi) / 2)
      else leastExponent B v fuel ((lo + hi) / 2 + 1) hi
    else lo

/-- D(n, B), the least natural d such that B^d ≥ 256^n (R160). For B ≥ 2 it is at most 8n, since 2^(8n) = 256^n. -/
def digitCount (n B : Nat) : Nat := leastExponent B (256 ^ n) (8 * n + 1) 0 (8 * n)

/-- `bytesToDigits(s, B)` (R162). -/
def bytesToDigits (s : List Byte) (B : Nat) : List Nat := digitsOf B (numBe s) (digitCount s.length B)

/-- A digit vector as it lies in BUF: LE16 of each digit in turn (R161). -/
def digitBytes (d : List Nat) : List Byte := d.flatMap le16

/-- One pass of the long division of R163 over the digits of `src`: the quotient digits and the last remainder. -/
def divPass (F T : Nat) : List Nat → Nat → List Nat × Nat
  | [], rem => ([], rem)
  | x :: src, rem =>
    let cur := rem * F + x
    let rest := divPass F T src (cur % T)
    (cur / T :: rest.1, rest.2)

/-- The passes of R163, at most `fuel` of them; the output is least significant digit first. -/
def divPasses (F T : Nat) : Nat → List Nat → List Nat
  | 0, _ => []
  | fuel + 1, src =>
    if src.all (· == 0) then []
    else (divPass F T src 0).2 :: divPasses F T fuel (divPass F T src 0).1

/-- `convert(src, F, T)`, the source's repeated long division (R163). Each pass divides the value by T ≥ 2, so the value
itself bounds the passes. The commands use R162's definition; this one is for comparison. -/
def convertDigits (src : List Nat) (F T : Nat) : List Nat := (divPasses F T (numBase F src) src).reverse

end Sys2Proof.Machine
end

