-- ==== Sys2Proof/Machine/Operands.lean ====
section
/-! DEFINITION. Operand regions and the checks of a command in their order (30_encoding.md R94, R95; 40_control.md R126,
R127). -/

namespace Sys2Proof.Machine

/-- A half-open range of BUF addresses (30_encoding.md R94). -/
structure Region where
  addr : Nat
  size : Nat
deriving DecidableEq, Repr

/-- `inBuf(a, n)`: a + n ≤ BUF_BYTES, without wrap-around (40_control.md R127). -/
def inBuf (c : Config) (r : Region) : Bool := decide (r.addr + r.size ≤ c.bufBytes)

/-! ### The regions of R94 -/

/-- [SRC, SRC+LEN). -/
def State.srcBytes (s : State) : Region := ⟨s.src.toNat, s.len.toNat⟩

/-- [SRC, SRC+2·XLEN). -/
def State.srcDigits (s : State) : Region := ⟨s.src.toNat, 2 * s.xlen.toNat⟩

/-- [DST, DST+LEN). -/
def State.dstBytes (s : State) : Region := ⟨s.dst.toNat, s.len.toNat⟩

/-- D(x[LEN], x[BASE]). -/
def State.digitTotal (s : State) : Nat := digitCount s.len.toNat s.base.toNat

/-- [DST, DST+2·D). -/
def State.dstDigits (s : State) : Region := ⟨s.dst.toNat, 2 * s.digitTotal⟩

/-- [KADDR, KADDR+KLEN). -/
def State.keyRegion (s : State) : Region := ⟨s.kaddr.toNat, s.klen.toNat⟩

/-- The bytes of a region (00_scope.md R14). -/
def State.readRegion (s : State) (r : Region) : List Byte := s.memRead r.addr r.size

/-! ### The checks of R126 -/

/-- One check: the error it raises, if it fails. -/
abbrev Check := State → Option ErrorCode

/-- The error `c` unless `ok` holds. -/
def failUnless (ok : Bool) (c : ErrorCode) : Option ErrorCode := if ok then none else some c

/-- Check 2: 2 ≤ x[BASE] ≤ 65536. -/
def checkBase : Check := fun s =>
  failUnless (decide (baseMin ≤ s.base.toNat) && decide (s.base.toNat ≤ baseMax)) .badBase

/-- Check 3: x[ROUNDS] ≠ 0. -/
def checkRounds : Check := fun s => failUnless (s.rounds != 0) .badRounds

/-- Check 4: 1 ≤ x[KLEN] ≤ 64. -/
def checkKeyLen : Check := fun s =>
  failUnless (decide (1 ≤ s.klen.toNat) && decide (s.klen.toNat ≤ keyMax)) .badKeyLen

/-- Check 5, for a source region. -/
def checkSrc (region : State → Region) : Check := fun s => failUnless (inBuf s.cfg (region s)) .srcRange

/-- Check 5, for RADIX_DCOUNT: x[LEN] ≤ BUF_BYTES. -/
def checkCountLen : Check := fun s => failUnless (decide (s.len.toNat ≤ s.cfg.bufBytes)) .srcRange

/-- Check 6, for a destination region. -/
def checkDst (region : State → Region) : Check := fun s => failUnless (inBuf s.cfg (region s)) .dstRange

/-- Check 7. -/
def checkKey : Check := fun s => failUnless (inBuf s.cfg s.keyRegion) .keyRange

/-- The first check that fails, in order (40_control.md R126). -/
def firstError : List Check → Check
  | [], _ => none
  | c :: cs, s =>
    match c s with
    | some e => some e
    | none => firstError cs s

/-- `run(op)` for a command with these checks and this rule (40_control.md R126). -/
def runChecked (checks : List Check) (rule : State → RunOutcome) (s : State) : RunOutcome :=
  match firstError checks s with
  | some e => .err e
  | none => rule s

end Sys2Proof.Machine
end

