-- ==== Sys2Proof/Machine/Control.lean ====
section
/-! DEFINITION. The control command NOP, and the completion of an illegal word (40_control.md R124, R126, R128). -/

namespace Sys2Proof.Machine

/-- `NOP`: completes with success and no result; BUF and RESULT stay (40_control.md R128). -/
def execNop (s : State) : Host.Outcome State Fault Refusal := .next (s.complete (.ok [] none))

/-- The completion of an illegal word: check 1 of R126 raises ILLEGAL_CMD (30_encoding.md R92, R93). -/
def completeIllegal (s : State) : State := s.complete (.err .illegalCmd)

end Sys2Proof.Machine
end

