-- ==== Sys2Proof/Machine/CrcFunction.lean ====
section
/-! DEFINITION. The CRC-32 function (41_crc32.md R140, R141, R143). -/

namespace Sys2Proof.Machine

/-- POLY of R140. -/
def crcPoly : Word := 0xEDB88320

/-- One pass of the inner loop of R140 and R143. -/
def crcBit (c : Word) : Word := if c.getLsbD 0 then (c >>> 1) ^^^ crcPoly else c >>> 1

/-- `n` passes of the inner loop. -/
def crcBits : Nat → Word → Word
  | 0, c => c
  | n + 1, c => crcBits n (crcBit c)

/-- CRCT[i], by the generator of R140. -/
def crcTable (i : Byte) : Word := crcBits 8 (i.setWidth 32)

/-- One byte of R141: CRCT[(c ⊕ b) & 0xFF] ⊕ (c >> 8). -/
def crcStep (c : Word) (b : Byte) : Word := crcTable ((c ^^^ b.setWidth 32).setWidth 8) ^^^ (c >>> 8)

/-- `crc32(s)` of R141. -/
def crc32 (s : List Byte) : Word := s.foldl crcStep 0xFFFFFFFF ^^^ 0xFFFFFFFF

/-- `crc32_bitwise(s)` of R143. -/
def crc32Bitwise (s : List Byte) : Word :=
  s.foldl (fun c b => crcBits 8 (c ^^^ b.setWidth 32)) 0xFFFFFFFF ^^^ 0xFFFFFFFF

end Sys2Proof.Machine
end

