-- ==== Sys2Proof/Machine/Crc.lean ====
section
/-! DEFINITION. The command CRC32 (41_crc32.md R142). -/

namespace Sys2Proof.Machine

/-- The checks of CRC32 (R142). -/
def crc32Checks : List Check := [checkSrc State.srcBytes]

/-- RESULT <- crc32 of the source bytes; no BUF byte is written (R142). -/
def crc32Rule (s : State) : RunOutcome := .ok [] (some (crc32 (s.readRegion s.srcBytes)))

/-- `CRC32` (R142). -/
def execCrc32 (s : State) : Host.Outcome State Fault Refusal :=
  .next (s.complete (runChecked crc32Checks crc32Rule s))

end Sys2Proof.Machine
end

