-- ==== Sys2Proof/Machine/Sha256.lean ====
section
/-! DEFINITION. SHA-256 and HMAC-SHA-256 (43_prp.md R190 to R192). -/

namespace Sys2Proof.Machine

/-- ROTR_k(x) (R190). -/
def rotr (k : Nat) (x : Word) : Word := (x >>> k) ||| (x <<< (32 - k))

/-- Ch (R190). -/
def shaCh (e f g : Word) : Word := (e &&& f) ^^^ (~~~e &&& g)

/-- Maj (R190). -/
def shaMaj (a b c : Word) : Word := (a &&& b) ^^^ (a &&& c) ^^^ (b &&& c)

/-- Σ0 (R190). -/
def bigSigma0 (x : Word) : Word := rotr 2 x ^^^ rotr 13 x ^^^ rotr 22 x

/-- Σ1 (R190). -/
def bigSigma1 (x : Word) : Word := rotr 6 x ^^^ rotr 11 x ^^^ rotr 25 x

/-- σ0 (R190). -/
def smallSigma0 (x : Word) : Word := rotr 7 x ^^^ rotr 18 x ^^^ (x >>> 3)

/-- σ1 (R190). -/
def smallSigma1 (x : Word) : Word := rotr 17 x ^^^ rotr 19 x ^^^ (x >>> 10)

/-- The eight working words (a, ..., h) of R190, or the hash words H[0..7]. -/
structure HashWords where
  a : Word
  b : Word
  c : Word
  d : Word
  e : Word
  f : Word
  g : Word
  h : Word
deriving DecidableEq, Repr

/-- Word `i` of a row of eight words as R191 prints it, the leftmost word first: the row is one 256-bit numeral. -/
def rowWord (row i : Nat) : Word := BitVec.ofNat 32 (row / 2 ^ (32 * (7 - i)))

/-- The row of H0 (R191). -/
def shaH0Row : Nat := 0x6a09e667_bb67ae85_3c6ef372_a54ff53a_510e527f_9b05688c_1f83d9ab_5be0cd19

/-- H0 (R191). -/
def shaH0 : HashWords where
  a := rowWord shaH0Row 0
  b := rowWord shaH0Row 1
  c := rowWord shaH0Row 2
  d := rowWord shaH0Row 3
  e := rowWord shaH0Row 4
  f := rowWord shaH0Row 5
  g := rowWord shaH0Row 6
  h := rowWord shaH0Row 7

/-- The eight rows of K, each as R191 prints it. -/
def shaKRows : List Nat := [
  0x428a2f98_71374491_b5c0fbcf_e9b5dba5_3956c25b_59f111f1_923f82a4_ab1c5ed5,
  0xd807aa98_12835b01_243185be_550c7dc3_72be5d74_80deb1fe_9bdc06a7_c19bf174,
  0xe49b69c1_efbe4786_0fc19dc6_240ca1cc_2de92c6f_4a7484aa_5cb0a9dc_76f988da,
  0x983e5152_a831c66d_b00327c8_bf597fc7_c6e00bf3_d5a79147_06ca6351_14292967,
  0x27b70a85_2e1b2138_4d2c6dfc_53380d13_650a7354_766a0abb_81c2c92e_92722c85,
  0xa2bfe8a1_a81a664b_c24b8b70_c76c51a3_d192e819_d6990624_f40e3585_106aa070,
  0x19a4c116_1e376c08_2748774c_34b0bcb5_391c0cb3_4ed8aa4a_5b9cca4f_682e6ff3,
  0x748f82ee_78a5636f_84c87814_8cc70208_90befffa_a4506ceb_bef9a3f7_c67178f2]

/-- K[0..63] (R191): the words of the rows, in order. -/
def shaK : List Word := shaKRows.flatMap fun row => (List.range 8).map (rowWord row)

/-- The first `n` big-endian words of a byte string (R190). -/
def wordsBe : Nat → List Byte → List Word
  | 0, _ => []
  | n + 1, s => BitVec.ofNat 32 (numBe (s.take 4)) :: wordsBe n (s.drop 4)

/-- W[t] = σ1(W[t-2]) + W[t-7] + σ0(W[t-15]) + W[t-16], the earlier words newest first (R190). -/
def nextScheduleWord (ws : List Word) : Word :=
  smallSigma1 (ws.getD 1 0) + ws.getD 6 0 + smallSigma0 (ws.getD 14 0) + ws.getD 15 0

/-- `n` further words of the message schedule, newest first (R190). -/
def extendSchedule : Nat → List Word → List Word
  | 0, ws => ws
  | n + 1, ws => extendSchedule n (nextScheduleWord ws :: ws)

/-- W[0..63] of one 64-byte block (R190). -/
def messageSchedule (block : List Byte) : List Word :=
  (extendSchedule 48 (wordsBe 16 block).reverse).reverse

/-- One round of R190, with `kw` = (K[t], W[t]). -/
def shaRound (v : HashWords) (kw : Word × Word) : HashWords :=
  let t1 := v.h + bigSigma1 v.e + shaCh v.e v.f v.g + kw.1 + kw.2
  let t2 := bigSigma0 v.a + shaMaj v.a v.b v.c
  { a := t1 + t2, b := v.a, c := v.b, d := v.c, e := v.d + t1, f := v.e, g := v.f, h := v.g }

/-- One 64-byte block of R190. -/
def shaBlock (hs : HashWords) (block : List Byte) : HashWords :=
  let v := (shaK.zip (messageSchedule block)).foldl shaRound hs
  { a := hs.a + v.a, b := hs.b + v.b, c := hs.c + v.c, d := hs.d + v.d,
    e := hs.e + v.e, f := hs.f + v.f, g := hs.g + v.g, h := hs.h + v.h }

/-- `n` successive blocks of `p`. -/
def shaBlocks : Nat → List Byte → HashWords → HashWords
  | 0, _, hs => hs
  | n + 1, p, hs => shaBlocks n (p.drop 64) (shaBlock hs (p.take 64))

/-- P of R190: the message, 0x80, the least number of zero bytes, and the bit length. -/
def shaPad (m : List Byte) : List Byte :=
  m ++ [0x80] ++ zeros ((119 - m.length % 64) % 64) ++ be64 (8 * m.length)

/-- The 32 bytes of eight hash words (R190). -/
def HashWords.bytes (v : HashWords) : List Byte :=
  be32 v.a ++ be32 v.b ++ be32 v.c ++ be32 v.d ++ be32 v.e ++ be32 v.f ++ be32 v.g ++ be32 v.h

/-- SHA-256(M) (R190). -/
def sha256 (m : List Byte) : List Byte :=
  (shaBlocks ((shaPad m).length / 64) (shaPad m) shaH0).bytes

/-- K0 with every byte ⊕ `c`, where K0 is the key filled up with zeros to 64 bytes (R192). -/
def hmacPad (k : List Byte) (c : Byte) : List Byte := (k ++ zeros (64 - k.length)).map (· ^^^ c)

/-- HMAC(k, m) for a key of 1 to 64 bytes (R192). -/
def hmac (k m : List Byte) : List Byte := sha256 (hmacPad k 0x5c ++ sha256 (hmacPad k 0x36 ++ m))

end Sys2Proof.Machine
end

