-- ==== Sys2Proof/Machine/PrpFunction.lean ====
section
/-! DEFINITION. The PRF, the cyclic xor and the Feistel permutations (43_prp.md R193 to R196). -/

namespace Sys2Proof.Machine

/-- `PRF(x, k, r)`: the MACs for the counters 0, 1, ..., as many as |x| bytes take, cut to |x| bytes (R193). -/
def prf (x k : List Byte) (r : Word) : List Byte :=
  ((List.range ((x.length + 31) / 32)).flatMap fun c =>
    hmac k (x ++ be32 r ++ be32 (BitVec.ofNat 32 c))).take x.length

/-- `xorc(L, F)`: F cut or cycled to the length of L; an empty F leaves L (R194). -/
def xorc (l f : List Byte) : List Byte :=
  match f with
  | [] => l
  | _ :: _ => (List.range l.length).map fun i => l.getD i 0 ^^^ f.getD (i % f.length) 0

/-- The rounds of the forward permutation from round `r` on, `n` of them (R195). -/
def feistelRounds (k : List Byte) : Nat → Nat → List Byte → List Byte → List Byte
  | 0, _, l, r => l ++ r
  | n + 1, i, l, r => feistelRounds k n (i + 1) r (xorc l (prf r k (BitVec.ofNat 32 i)))

/-- `feistel_fwd(s, k, ρ)` (R195). -/
def feistelFwd (s k : List Byte) (rho : Nat) : List Byte :=
  feistelRounds k rho 0 (s.take (s.length / 2)) (s.drop (s.length / 2))

/-- The rounds of the inverse permutation, from round n-1 down to 0 (R196). -/
def feistelUnrounds (k : List Byte) : Nat → List Byte → List Byte → List Byte
  | 0, l, r => l ++ r
  | n + 1, l, r => feistelUnrounds k n (xorc r (prf l k (BitVec.ofNat 32 n))) l

/-- The length of L after ρ forward rounds on `n` bytes (R195, R196). -/
def feistelSplit (n rho : Nat) : Nat := if rho % 2 = 0 then n / 2 else n - n / 2

/-- `feistel_inv(t, k, ρ)` (R196). -/
def feistelInv (t k : List Byte) (rho : Nat) : List Byte :=
  feistelUnrounds k rho (t.take (feistelSplit t.length rho)) (t.drop (feistelSplit t.length rho))

end Sys2Proof.Machine
end

