-- ==== Sys2Proof/Machine/Prp.lean ====
section
/-! DEFINITION. The commands FEISTEL_FWD, FEISTEL_INV and PRF (43_prp.md R197 to R200). -/

namespace Sys2Proof.Machine

/-- The operand checks that the three commands share (40_control.md R126, checks 4 to 7). -/
def keyedChecks : List Check := [checkKeyLen, checkSrc State.srcBytes, checkDst State.dstBytes, checkKey]

/-- The checks of the two Feistel commands (R198). -/
def feistelChecks : List Check := checkRounds :: keyedChecks

/-- Store `out` at DST; RESULT <- LEN (R198 to R200). -/
def keyedResult (s : State) (out : List Byte) : RunOutcome := .ok [⟨s.dst.toNat, out⟩] (some s.len)

/-- The rule of FEISTEL_FWD after its checks (R198). -/
def feistelFwdRule (s : State) : RunOutcome :=
  keyedResult s (feistelFwd (s.readRegion s.srcBytes) (s.readRegion s.keyRegion) s.rounds.toNat)

/-- The rule of FEISTEL_INV after its checks (R199). -/
def feistelInvRule (s : State) : RunOutcome :=
  keyedResult s (feistelInv (s.readRegion s.srcBytes) (s.readRegion s.keyRegion) s.rounds.toNat)

/-- The rule of PRF after its checks: ROUNDS is the round number (R200). -/
def prfRule (s : State) : RunOutcome :=
  keyedResult s (prf (s.readRegion s.srcBytes) (s.readRegion s.keyRegion) s.rounds)

/-- `FEISTEL_FWD` (R198). -/
def execFeistelFwd (s : State) : Host.Outcome State Fault Refusal :=
  .next (s.complete (runChecked feistelChecks feistelFwdRule s))

/-- `FEISTEL_INV` (R199). -/
def execFeistelInv (s : State) : Host.Outcome State Fault Refusal :=
  .next (s.complete (runChecked feistelChecks feistelInvRule s))

/-- `PRF` (R200). -/
def execPrf (s : State) : Host.Outcome State Fault Refusal :=
  .next (s.complete (runChecked keyedChecks prfRule s))

end Sys2Proof.Machine
end

