-- ==== Sys2Proof/Machine/Radix.lean ====
section
/-! DEFINITION. The commands RADIX_B2D, RADIX_D2B and RADIX_DCOUNT (42_radix.md R165 to R167). -/

namespace Sys2Proof.Machine

/-- The checks of RADIX_B2D (R165). -/
def radixB2dChecks : List Check := [checkBase, checkSrc State.srcBytes, checkDst State.dstDigits]

/-- The rule of RADIX_B2D after its checks: the digits go to DST, their number to RESULT (R165). -/
def radixB2dRule (s : State) : RunOutcome :=
  .ok [⟨s.dst.toNat, digitBytes (bytesToDigits (s.readRegion s.srcBytes) s.base.toNat)⟩]
    (some (BitVec.ofNat 32 s.digitTotal))

/-- `RADIX_B2D` (R165). -/
def execRadixB2d (s : State) : Host.Outcome State Fault Refusal :=
  .next (s.complete (runChecked radixB2dChecks radixB2dRule s))

/-- The digits that RADIX_D2B reads (R166). -/
def State.sourceDigits (s : State) : List Nat := s.readDigits s.src.toNat s.xlen.toNat

/-- Check 8 of RADIX_D2B, first part: every digit is below the base (R166). -/
def checkDigits : Check := fun s =>
  failUnless (s.sourceDigits.all fun d => decide (d < s.base.toNat)) .digitRange

/-- Check 8 of RADIX_D2B, second part: the value fits LEN bytes (R166). -/
def checkOverflow : Check := fun s =>
  failUnless (decide (numBase s.base.toNat s.sourceDigits < 256 ^ s.len.toNat)) .overflow

/-- The checks of RADIX_D2B, the two on its data last (R166). -/
def radixD2bChecks : List Check :=
  [checkBase, checkSrc State.srcDigits, checkDst State.dstBytes, checkDigits, checkOverflow]

/-- The rule of RADIX_D2B after its checks: the bytes go to DST, LEN to RESULT (R166). -/
def radixD2bRule (s : State) : RunOutcome :=
  .ok [⟨s.dst.toNat, bytesBe (numBase s.base.toNat s.sourceDigits) s.len.toNat⟩] (some s.len)

/-- `RADIX_D2B` (R166). -/
def execRadixD2b (s : State) : Host.Outcome State Fault Refusal :=
  .next (s.complete (runChecked radixD2bChecks radixD2bRule s))

/-- The checks of RADIX_DCOUNT (R167). -/
def radixDcountChecks : List Check := [checkBase, checkCountLen]

/-- The rule of RADIX_DCOUNT after its checks (R167). -/
def radixDcountRule (s : State) : RunOutcome := .ok [] (some (BitVec.ofNat 32 s.digitTotal))

/-- `RADIX_DCOUNT` (R167). -/
def execRadixDcount (s : State) : Host.Outcome State Fault Refusal :=
  .next (s.complete (runChecked radixDcountChecks radixDcountRule s))

end Sys2Proof.Machine
end

