-- ==== Sys2Proof/Machine/Dispatch.lean ====
section
/-! DEFINITION. The meaning of each command: its completion (40_control.md R124, R126). -/

namespace Sys2Proof.Machine

def exec (i : Instr) (s : State) : Host.Outcome State Fault Refusal :=
  match i with
  | .nop => Sys2Proof.Machine.execNop s
  | .crc32 => Sys2Proof.Machine.execCrc32 s
  | .feistelFwd => Sys2Proof.Machine.execFeistelFwd s
  | .feistelInv => Sys2Proof.Machine.execFeistelInv s
  | .prf => Sys2Proof.Machine.execPrf s
  | .radixB2d => Sys2Proof.Machine.execRadixB2d s
  | .radixD2b => Sys2Proof.Machine.execRadixD2b s
  | .radixDcount => Sys2Proof.Machine.execRadixDcount s

end Sys2Proof.Machine
end

