-- ==== Sys2Proof/Machine/Engine.lean ====
section
/-! DEFINITION. The engine's turn (40_control.md R124, R129; 10_state.md R20). -/

namespace Sys2Proof.Machine

/-- The word of the command in flight (10_state.md R32). -/
def State.fetch (s : State) : Word := s.cmd

/-- The engine's turn: while Busy, the completion of the command in flight; while Idle, nothing (40_control.md R124). -/
def engineTurn (s : State) : Host.Outcome State Fault Refusal :=
  match s.phase with
  | .idle => .next s
  | .busy =>
    match decode s.fetch with
    | .ok i => exec i s
    | .error _ => .next (completeIllegal s)

end Sys2Proof.Machine
end

