-- ==== Sys2Proof/Machine/Bus.lean ====
section
/-! DEFINITION. One host access at the block: address decoding, BusError, register and BUF accesses (20_memory.md R60 to
R64; 60_exceptions.md R233; 40_control.md R121 to R123). -/

namespace Sys2Proof

/-- The aperture offset of a register (10_state.md R21). -/
def Reg.offset : Reg → Nat
  | .id => 0x0000
  | .param => 0x0004
  | .ctrl => 0x0008
  | .status => 0x000C
  | .cmd => 0x0010
  | .src => 0x0014
  | .dst => 0x0018
  | .len => 0x001C
  | .xlen => 0x0020
  | .kaddr => 0x0024
  | .klen => 0x0028
  | .base => 0x002C
  | .rounds => 0x0030
  | .result => 0x0034

/-- The registers in the order of their offsets (10_state.md R21). -/
def allRegs : List Reg :=
  [.id, .param, .ctrl, .status, .cmd, .src, .dst, .len, .xlen, .kaddr, .klen, .base, .rounds, .result]

/-- The register at an aperture offset, if there is one (10_state.md R21). -/
def regAt? (off : Nat) : Option Reg := allRegs.find? fun r => r.offset == off

/-- The width of a transaction in bytes (30_encoding.md R97). -/
def BusOp.width : BusOp → Nat
  | .rd8 => 1
  | .rd16 => 2
  | .rd32 => 4
  | .wr8 _ => 1
  | .wr16 _ => 2
  | .wr32 _ => 4

/-- The value a transaction writes, if it is a write (30_encoding.md R97). -/
def BusOp.value? : BusOp → Option Word
  | .rd8 => none
  | .rd16 => none
  | .rd32 => none
  | .wr8 v => some (v.setWidth 32)
  | .wr16 v => some (v.setWidth 32)
  | .wr32 v => some v

end Sys2Proof

namespace Sys2Proof.Machine

/-- What an accepted access reaches: a register, or BUF from a BUF address on (20_memory.md R60). -/
inductive Target where
  | reg (r : Reg)
  | buf (a : Nat)
deriving DecidableEq, Repr

/-- What an access of `w` bytes at an aperture offset reaches, or why it is a BusError (20_memory.md R60 to R62,
60_exceptions.md R233; log 13). -/
def route (c : Config) (off w : Nat) : Except BusCause Target :=
  if off < registerBytes then
    match regAt? off with
    | some r => if w = 4 then .ok (.reg r) else .error .registerAccess
    | none => .error .registerAccess
  else if off < bufWindow then .error .unmapped
  else if c.bufBytes ≤ off - bufWindow then .error .unmapped
  else if (off - bufWindow) % w = 0 ∧ off - bufWindow + w ≤ c.bufBytes then .ok (.buf (off - bufWindow))
  else .error .bufAccess

/-- The `n` free bytes that a BUF read while busy returns, one fresh draw each (40_control.md R123, U2). -/
def State.freeBytes (s : State) (n : Nat) : List Byte :=
  (List.range n).map fun i => Config.busyByte (s.draws + i)

/-- A host read of `w` bytes of BUF from `a` on: the stored bytes when idle, free bytes while busy
(20_memory.md R62, 40_control.md R123). -/
def State.readBuf (s : State) (a w : Nat) : State × Word :=
  if s.busy then ({ s with draws := s.draws + w }, BitVec.ofNat 32 (numLe (s.freeBytes w)))
  else (s, BitVec.ofNat 32 (numLe (s.memRead a w)))

/-- A host write of the low `w` bytes of `v` to BUF from `a` on; dropped while busy (20_memory.md R62,
40_control.md R121). -/
def State.writeBuf (s : State) (a w : Nat) (v : Word) : State :=
  if s.busy then s.setDrop else s.storeBytes a (leBytes v.toNat w)

/-- One host access at an aperture offset: the state after it and the block's reply. A refused access changes nothing
(20_memory.md R61 to R63). -/
def State.hostAccess (s : State) (off : Nat) (op : BusOp) : State × Reply :=
  match route s.cfg off op.width with
  | .error e => (s, .busError e)
  | .ok (.reg r) =>
    match op.value? with
    | none => (s, .data (s.readReg r))
    | some v => (s.writeReg r v, .written)
  | .ok (.buf a) =>
    match op.value? with
    | none => ((s.readBuf a op.width).1, .data (s.readBuf a op.width).2)
    | some v => (s.writeBuf a op.width v, .written)

end Sys2Proof.Machine
end

