-- ==== Sys2Proof/Machine/Hosts.lean ====
section
/-! DEFINITION. The hosts: what one host's turn does, which item of its program may be next, and how its run ends
(20_memory.md R63, R71, R72; 30_encoding.md R98; 70_reset_and_hazards.md R267). -/

namespace Sys2Proof

/-- The aperture offset that a platform address names, if it lies in this block's aperture (20_memory.md R60). -/
def Config.offset? (c : Config) (addr : Nat) : Option Nat :=
  if c.blockBase ≤ addr ∧ addr < c.blockBase + apertureBytes then some (addr - c.blockBase) else none

/-- Whether the item is a barrier. -/
def HostItem.isBarrier : HostItem → Bool
  | .access _ => false
  | .wait => false
  | .waitIrq => false
  | .barrier => true

end Sys2Proof

namespace Sys2Proof.Machine

/-- Host `h`'s access reaches the block, and the reply goes on the record. An access outside the aperture is no event of
this block (log 9). -/
def State.serve (s : State) (h : Nat) (a : Access) : State × Option Reply :=
  match s.cfg.offset? a.addr with
  | none => (s, none)
  | some off =>
    ({ (s.hostAccess off a.op).1 with trace := ⟨h, a, (s.hostAccess off a.op).2⟩ :: s.trace },
      some (s.hostAccess off a.op).2)

/-- Host `h`'s program becomes `p`. -/
def State.setProgram (s : State) (h : Nat) (p : List HostItem) : State :=
  { s with programs := s.programs.set h p }

/-- Whether item `k` of a program may be next: the oldest always; a later one only where HOST_ORDER is false, and never
across a barrier (20_memory.md R72, 70_reset_and_hazards.md R267; log 7). -/
def deliverable (hostOrder : Bool) (p : List HostItem) (k : Nat) : Bool :=
  k == 0 || (!hostOrder && !(p.take (k + 1)).any HostItem.isBarrier)

/-- The read of STATUS that `wait` repeats (30_encoding.md R98). -/
def statusRead (c : Config) : Access := ⟨c.blockBase + Reg.status.offset, .rd32⟩

/-- Whether a reply ends the host's run (20_memory.md R63, U4). -/
def Reply.isBusError : Reply → Bool
  | .written => false
  | .data _ => false
  | .busError _ => true

/-- Whether the value `wait` read has bit 0 set, so that the loop goes on (30_encoding.md R98). -/
def Reply.showsBusy : Reply → Bool
  | .written => false
  | .data v => v.getLsbD 0
  | .busError _ => false

/-- Host `h` performs item `k` of its program `p`. A refused access ends the host's run: nothing of its program is left
(20_memory.md R63, U4; log 8). -/
def State.performItem (s : State) (h k : Nat) (p : List HostItem) : HostItem → State
  | .access a =>
    if (s.serve h a).2.any Reply.isBusError then (s.serve h a).1.setProgram h []
    else (s.serve h a).1.setProgram h (p.eraseIdx k)
  | .wait =>
    if (s.serve h (statusRead s.cfg)).2.any Reply.showsBusy then (s.serve h (statusRead s.cfg)).1
    else (s.serve h (statusRead s.cfg)).1.setProgram h (p.eraseIdx k)
  | .waitIrq => if s.irq then s.setProgram h (p.eraseIdx k) else s
  | .barrier => s.setProgram h (p.eraseIdx k)

/-- Host `h`'s turn with item `k` of its program; nothing happens where there is no such item or it may not be next
(log 5). -/
def State.hostTurn (s : State) (h k : Nat) : State :=
  match s.programs[h]? with
  | none => s
  | some p =>
    match p[k]? with
    | none => s
    | some item => if deliverable s.cfg.hostOrder p k then s.performItem h k p item else s

/-- Whether a host with the program `p` can go on: it has an item left, and does not wait for an IRQ that is low. -/
def State.canGoOn (s : State) : List HostItem → Bool
  | [] => false
  | .waitIrq :: _ => s.irq
  | .access _ :: _ => true
  | .wait :: _ => true
  | .barrier :: _ => true

/-- The lowest-numbered host that can go on. -/
def State.nextHost? (s : State) : Option Nat := s.programs.findIdx? s.canGoOn

/-- The BusError that a transaction records. -/
def Transaction.fault? (t : Transaction) : Option Fault :=
  match t.reply with
  | .written => none
  | .data _ => none
  | .busError c => some (.busError t.host c)

/-- The last BusError on the record (20_memory.md R63, U4; log 8). -/
def State.recordedFault? (s : State) : Option Fault := s.trace.findSome? Transaction.fault?

end Sys2Proof.Machine
end

