-- ==== Sys2Proof/Machine/Step.lean ====
section
/-! DEFINITION. One step of the machine, and the placing of a command where the step finds it. -/

namespace Sys2Proof.Machine

/-- What the agent whose turn it is does. -/
def takeTurn (s : State) : Turn → Host.Outcome State Fault Refusal
  | .host h k => .next (s.hostTurn h k)
  | .engine => engineTurn s
  | .reset => .next s.resetEvent

/-- What happens when no turn is given: a busy engine completes its command, else the lowest-numbered host that can go on
does, else nothing can move, and the run ends in the recorded fault or the block stays idle (log 5, log 8). -/
def ownTurn (s : State) : Host.Outcome State Fault Refusal :=
  match s.phase with
  | .busy => engineTurn s
  | .idle =>
    match s.nextHost? with
    | some h => .next (s.hostTurn h 0)
    | none =>
      match s.recordedFault? with
      | some f => .fault f
      | none => .next s

/-- One step: the next event, in the order of the given turns (20_memory.md R71; log 5). -/
def step (s : State) : Host.Outcome State Fault Refusal :=
  match s.schedule with
  | t :: rest => takeTurn { s with schedule := rest } t
  | [] => ownTurn s

/-- The state in which the word `w` has just been accepted and the engine moves next, so that the very next step runs it
(40_control.md R120, R124; log 10). -/
def State.withFetchWord (s : State) (nbits w : Nat) : State :=
  { s.accept (BitVec.ofNat 32 (w % 2 ^ nbits)) with schedule := [] }

end Sys2Proof.Machine
end

