-- ==== Sys2Proof/Machine/Asm.lean ====
section
/-! DEFINITION. The host-side pseudo-instructions and their expansions (30_encoding.md R97, R98). -/

namespace Sys2Proof.Machine

/-- `wr32 r, v`. -/
def asmWriteReg (c : Config) (r : Reg) (v : Word) : HostItem := .access ⟨c.blockBase + r.offset, .wr32 v⟩

/-- `rd32 r`. -/
def asmReadReg (c : Config) (r : Reg) : HostItem := .access ⟨c.blockBase + r.offset, .rd32⟩

/-- A transaction at `BUF+a`. -/
def asmBuf (c : Config) (a : Nat) (op : BusOp) : HostItem := .access ⟨c.blockBase + bufWindow + a, op⟩

/-- `issue i` (R98). -/
def asmIssue (c : Config) (i : Instr) : List HostItem := [asmWriteReg c .cmd (encode i)]

/-- `ack` (R98). -/
def asmAck (c : Config) : List HostItem := [asmWriteReg c .status 0x0000000E]

/-- `load BUF+a, s` (R98). -/
def asmLoad (c : Config) (a : Nat) : List Byte → List HostItem
  | [] => []
  | b :: s => asmBuf c a (.wr8 b) :: asmLoad c (a + 1) s

/-- `set r=v, ...` (R98). -/
def asmSet (c : Config) (rs : List (Reg × Word)) : List HostItem := rs.map fun p => asmWriteReg c p.1 p.2

/-- `issue i; wait` (R98). -/
def asmRun (c : Config) (i : Instr) : List HostItem := asmIssue c i ++ [.wait]

/-- `nop` (R98). -/
def asmNop (c : Config) : List HostItem := asmRun c .nop

/-- `crc32 src, len` (R98). -/
def asmCrc32 (c : Config) (src len : Word) : List HostItem := asmSet c [(.src, src), (.len, len)] ++ asmRun c .crc32

/-- The operands that the three keyed commands set (R98). -/
def asmKeyed (c : Config) (dst src len kaddr klen rounds : Word) : List HostItem :=
  asmSet c [(.src, src), (.dst, dst), (.len, len), (.kaddr, kaddr), (.klen, klen), (.rounds, rounds)]

/-- `feistel_fwd dst, src, len, kaddr, klen, rounds` (R98). -/
def asmFeistelFwd (c : Config) (dst src len kaddr klen rounds : Word) : List HostItem :=
  asmKeyed c dst src len kaddr klen rounds ++ asmRun c .feistelFwd

/-- `feistel_inv dst, src, len, kaddr, klen, rounds` (R98). -/
def asmFeistelInv (c : Config) (dst src len kaddr klen rounds : Word) : List HostItem :=
  asmKeyed c dst src len kaddr klen rounds ++ asmRun c .feistelInv

/-- `prf dst, src, len, kaddr, klen, r` (R98). -/
def asmPrf (c : Config) (dst src len kaddr klen r : Word) : List HostItem :=
  asmKeyed c dst src len kaddr klen r ++ asmRun c .prf

/-- `radix_b2d dst, src, len, base` (R98). -/
def asmRadixB2d (c : Config) (dst src len base : Word) : List HostItem :=
  asmSet c [(.src, src), (.dst, dst), (.len, len), (.base, base)] ++ asmRun c .radixB2d

/-- `radix_d2b dst, src, xlen, len, base` (R98). -/
def asmRadixD2b (c : Config) (dst src xlen len base : Word) : List HostItem :=
  asmSet c [(.src, src), (.dst, dst), (.xlen, xlen), (.len, len), (.base, base)] ++ asmRun c .radixD2b

/-- `radix_dcount len, base` (R98). -/
def asmRadixDcount (c : Config) (len base : Word) : List HostItem :=
  asmSet c [(.len, len), (.base, base)] ++ asmRun c .radixDcount

end Sys2Proof.Machine
end

