-- ==== Sys2Proof/Safety.lean ====
section
/-! DEFINITION. The terms that the statements use: legal states, runs, the operand tables of R94, the check order of R126,
and what a command that stores bytes leaves behind. -/

namespace Sys2Proof

/-- The registers that a command reads (30_encoding.md R94). -/
def Instr.registersRead : Instr → List Reg
  | .nop => []
  | .crc32 => [.src, .len]
  | .feistelFwd => [.src, .dst, .len, .kaddr, .klen, .rounds]
  | .feistelInv => [.src, .dst, .len, .kaddr, .klen, .rounds]
  | .prf => [.src, .dst, .len, .kaddr, .klen, .rounds]
  | .radixB2d => [.src, .dst, .len, .base]
  | .radixD2b => [.src, .dst, .len, .xlen, .base]
  | .radixDcount => [.len, .base]

end Sys2Proof

namespace Sys2Proof.Machine

/-- The states the spec allows: the parameters are well formed (00_scope.md R7); phase and BUSY agree (10_state.md R37);
while busy DONE, ERR and ERRCODE are clear (40_control.md R120, R122); ERR goes with a nonzero ERRCODE (10_state.md R25);
ERRCODE is one of the codes 0x00 to 0x09 (60_exceptions.md R230, U10); the byte store lists no address outside BUF
(10_state.md R31). The clause `buf_wf`, that the byte store has its canonical form, is no rule of the spec: it is the model's
own form of BUF (DESIGN CHOICE, log 4). -/
structure State.Legal (s : State) : Prop where
  cfg_wf : s.cfg.wf = true
  phase_busy : s.phase = .busy ↔ s.busy = true
  busy_clear : s.busy = true → s.done = false ∧ s.err = false ∧ s.errcode = 0x00
  err_code : s.err = true → s.errcode ≠ 0x00
  code_known : s.errcode.toNat ≤ 9
  buf_wf : s.buf.wf = true
  buf_inside : s.buf.below s.cfg.bufBytes = true

/-- The next state of an outcome, if it has one. -/
def nextOf : Host.Outcome State Fault Refusal → Option State
  | .next s => some s
  | .fault _ => none
  | .refused _ => none

/-- `k` steps from `s`, if none of them ends the run. -/
def runSteps : Nat → State → Option State
  | 0, s => some s
  | k + 1, s => (nextOf (step s)).bind (runSteps k)

/-- The engine moves next: it is Busy, and its turn is given or no turn is given (40_control.md R124, R129). -/
def State.engineNext (s : State) : Prop :=
  s.phase = .busy ∧ (s.schedule = [] ∨ s.schedule.head? = some .engine)

/-- A run is safe when the block has refused no access in it (60_exceptions.md R233). -/
def State.noBusError (s : State) : Bool := s.recordedFault?.isNone

/-- `t` is `s` after a command that succeeded, stored the bytes `out` in BUF from address `a` on and put `res` into RESULT:
those bytes, RESULT and the STATUS update of a completion, and nothing else (40_control.md R124). -/
def State.StoredBy (s t : State) (a : Nat) (out : List Byte) (res : Word) : Prop :=
  (∀ i, i < out.length → t.bufByte (a + i) = out.getD i 0) ∧
  (∀ x, x < a ∨ a + out.length ≤ x → t.bufByte x = s.bufByte x) ∧
  t = { s with
    buf := t.buf, result := res, busy := false, phase := .idle, done := true, err := false, errcode := 0x00 }

/-! ### The source, destination and key regions of a command, as in the table of 30_encoding.md R94 -/

/-- The source region (a, n). -/
def sourceRegion? : Instr → State → Option (Nat × Nat)
  | .nop, _ => none
  | .crc32, s => some (s.src.toNat, s.len.toNat)
  | .feistelFwd, s => some (s.src.toNat, s.len.toNat)
  | .feistelInv, s => some (s.src.toNat, s.len.toNat)
  | .prf, s => some (s.src.toNat, s.len.toNat)
  | .radixB2d, s => some (s.src.toNat, s.len.toNat)
  | .radixD2b, s => some (s.src.toNat, 2 * s.xlen.toNat)
  | .radixDcount, _ => none

/-- The destination region (a, n). -/
def destinationRegion? : Instr → State → Option (Nat × Nat)
  | .nop, _ => none
  | .crc32, _ => none
  | .feistelFwd, s => some (s.dst.toNat, s.len.toNat)
  | .feistelInv, s => some (s.dst.toNat, s.len.toNat)
  | .prf, s => some (s.dst.toNat, s.len.toNat)
  | .radixB2d, s => some (s.dst.toNat, 2 * digitCount s.len.toNat s.base.toNat)
  | .radixD2b, s => some (s.dst.toNat, s.len.toNat)
  | .radixDcount, _ => none

/-- The key region (a, n). -/
def keyRegion? : Instr → State → Option (Nat × Nat)
  | .nop, _ => none
  | .crc32, _ => none
  | .feistelFwd, s => some (s.kaddr.toNat, s.klen.toNat)
  | .feistelInv, s => some (s.kaddr.toNat, s.klen.toNat)
  | .prf, s => some (s.kaddr.toNat, s.klen.toNat)
  | .radixB2d, _ => none
  | .radixD2b, _ => none
  | .radixDcount, _ => none

/-- The error code that 40_control.md R126 gives a command in flight, its eight checks in order; 0x00 if none fails. -/
def firstFailure (op : Except IllegalWord Instr) (s : State) : BitVec 8 :=
  match op with
  | .error _ => 0x01
  | .ok i =>
    if i ∈ [.radixB2d, .radixD2b, .radixDcount] ∧ ¬(2 ≤ s.base.toNat ∧ s.base.toNat ≤ 65536) then 0x02
    else if i ∈ [.feistelFwd, .feistelInv] ∧ s.rounds = 0 then 0x03
    else if i ∈ [.feistelFwd, .feistelInv, .prf] ∧ ¬(1 ≤ s.klen.toNat ∧ s.klen.toNat ≤ 64) then 0x04
    else if ∃ r ∈ sourceRegion? i s, s.cfg.bufBytes < r.1 + r.2 then 0x05
    else if i = .radixDcount ∧ s.cfg.bufBytes < s.len.toNat then 0x05
    else if ∃ r ∈ destinationRegion? i s, s.cfg.bufBytes < r.1 + r.2 then 0x06
    else if ∃ r ∈ keyRegion? i s, s.cfg.bufBytes < r.1 + r.2 then 0x07
    else if i = .radixD2b ∧ ∃ j < s.xlen.toNat, s.base.toNat ≤ s.memRead16 (s.src.toNat + 2 * j) then 0x08
    else if i = .radixD2b ∧
        256 ^ s.len.toNat ≤ numBase s.base.toNat (s.readDigits s.src.toNat s.xlen.toNat) then 0x09
    else 0x00

end Sys2Proof.Machine
end

