-- ==== Sys2Proof/Certificates/Slice0/Obligations.lean ====
section
/-! DEFINITION. The statements for the provers. Each docstring names the rules of spec/ that the statement rests on. -/

open Sys2Proof Sys2Proof.Machine

/-! ### Encoding -/

/-- 30_encoding.md R91: the eight words of the opcode map are the commands, and no other word is one. -/
def Obligations.OpcodeMapIsExact : Prop :=
  ∀ (w : Word) (i : Instr), decode w = .ok i ↔
    w = match i with
      | .nop => 0x00000000
      | .crc32 => 0x00000010
      | .feistelFwd => 0x00000020
      | .feistelInv => 0x00000021
      | .prf => 0x00000022
      | .radixB2d => 0x00000030
      | .radixD2b => 0x00000031
      | .radixDcount => 0x00000032

/-- 30_encoding.md R90, R91, R92: decode and encode agree in both directions: a word decodes to a command exactly when it is
that command's word, so `decode (encode i) = .ok i`, and no bit of a word is ignored. -/
def Obligations.DecodeAndEncodeAgree : Prop :=
  ∀ (w : Word) (i : Instr), i.wellFormed = true → (decode w = .ok i ↔ w = encode i)

/-- 30_encoding.md R91: some words of the opcode map, as the table of opcodes numbers their bits. -/
def Obligations.TableWordsDecode : Prop :=
  decodeTableWord 32 0x00 = some .nop ∧ decodeTableWord 32 0x10 = some .crc32 ∧
  decodeTableWord 32 0x21 = some .feistelInv ∧ decodeTableWord 32 0x32 = some .radixDcount ∧
  decodeTableWord 32 0x33 = none ∧ decodeTableWord 32 0x110 = none

/-- 30_encoding.md R93: a word with RSV ≠ 0 or an opcode outside the map completes with ILLEGAL_CMD and does nothing
else. -/
def Obligations.IllegalWordsCompleteWithIllegalCmd : Prop :=
  ∀ s : State, s.phase = .busy →
    (s.cmd.extractLsb' 8 24 ≠ 0 ∨
      4 ≤ (s.cmd.extractLsb' 4 4).toNat ∨
      ((s.cmd.extractLsb' 4 4).toNat ≤ 1 ∧ 1 ≤ (s.cmd.extractLsb' 0 4).toNat) ∨
      (2 ≤ (s.cmd.extractLsb' 4 4).toNat ∧ 3 ≤ (s.cmd.extractLsb' 0 4).toNat)) →
    engineTurn s = .next
      { s with busy := false, phase := .idle, done := true, err := true, errcode := 0x01 }

/-! ### The life of a command -/

/-- 40_control.md R124, 30_encoding.md R92: where the engine moves next and the word in CMD decodes to `i`, the step is the
meaning of `i`, with the engine's turn taken off the schedule. -/
def Obligations.StepRunsTheDecodedCommand : Prop :=
  ∀ (s : State) (i : Instr), s.phase = .busy → i.wellFormed = true → decode s.cmd = .ok i →
    (s.schedule = [] → step s = exec i s) ∧
    (∀ rest, s.schedule = .engine :: rest → step s = exec i { s with schedule := rest })

/-- 40_control.md R120, R124: a word placed in CMD runs in the very next step. -/
def Obligations.PlacedWordRunsNext : Prop :=
  ∀ (s : State) (nbits w : Nat) (i : Instr), decodeTableWord nbits w = some i →
    step (s.withFetchWord nbits w) = exec i (s.withFetchWord nbits w)

/-- 40_control.md R120: the accept of a command. The word is then read back with all 32 bits as written, whatever it
decodes to (10_state.md R27). -/
def Obligations.AcceptIssuesTheCommand : Prop :=
  ∀ (s : State) (v : Word), s.busy = false →
    s.hostAccess 0x0010 (.wr32 v) =
      ({ s with cmd := v, busy := true, done := false, err := false, errcode := 0x00, phase := .busy }, .written) ∧
    (s.hostAccess 0x0010 (.wr32 v)).1.irq = false ∧
    (s.hostAccess 0x0010 (.wr32 v)).1.hostAccess 0x0010 .rd32 = ((s.hostAccess 0x0010 (.wr32 v)).1, .data v)

/-- 40_control.md R121: while BUSY = 1 a write to CMD, an operand register or BUF only sets DROP; a refused write does not
even that; and ID, PARAM and RESULT ignore writes at all times. -/
def Obligations.WritesWhileBusyAreDropped : Prop :=
  ∀ s : State,
    (s.busy = true →
      (∀ (r : Reg) (v : Word), r = .cmd ∨ r.isOperand = true →
        s.hostAccess r.offset (.wr32 v) = ({ s with drop := true }, .written)) ∧
      (∀ (a : Nat) (op : BusOp), op.value? ≠ none → a % op.width = 0 → a + op.width ≤ s.cfg.bufBytes →
        s.hostAccess (0x8000 + a) op = ({ s with drop := true }, .written))) ∧
    (∀ (off : Nat) (op : BusOp) (c : BusCause),
      (s.hostAccess off op).2 = .busError c → (s.hostAccess off op).1 = s) ∧
    (∀ (r : Reg) (v : Word), r = .id ∨ r = .param ∨ r = .result →
      s.hostAccess r.offset (.wr32 v) = (s, .written))

/-- 10_state.md R32, 40_control.md R121, R125: from any state, for as long as the block stays busy, no event changes CMD, an
operand register, RESULT or a byte of BUF. -/
def Obligations.InputsStayFixedWhileBusy : Prop :=
  ∀ (k : Nat) (s t : State), (∀ j, j ≤ k → ∃ u, runSteps j s = some u ∧ u.busy = true) → runSteps k s = some t →
    t.cmd = s.cmd ∧ t.src = s.src ∧ t.dst = s.dst ∧ t.len = s.len ∧ t.xlen = s.xlen ∧ t.kaddr = s.kaddr ∧
    t.klen = s.klen ∧ t.base = s.base ∧ t.rounds = s.rounds ∧ t.result = s.result ∧
    ∀ a, t.bufByte a = s.bufByte a

/-- 40_control.md R124: every completion clears BUSY, sets DONE, sets ERR exactly for a nonzero code, leaves DROP, CTRL, CMD
and the operand registers, and IRQ then equals CTRL.IE. -/
def Obligations.CompletionSetsStatusAndKeepsOperands : Prop :=
  ∀ s : State, s.phase = .busy → ∃ t, engineTurn s = .next t ∧
    t.busy = false ∧ t.phase = .idle ∧ t.done = true ∧ (t.err = true ↔ t.errcode ≠ 0x00) ∧
    t.drop = s.drop ∧ t.ie = s.ie ∧ t.cmd = s.cmd ∧ t.src = s.src ∧ t.dst = s.dst ∧ t.len = s.len ∧
    t.xlen = s.xlen ∧ t.kaddr = s.kaddr ∧ t.klen = s.klen ∧ t.base = s.base ∧ t.rounds = s.rounds ∧
    t.cfg = s.cfg ∧ t.irq = s.ie

/-- 60_exceptions.md R231, 40_control.md R125: a command that fails changes BUSY, DONE, ERR and ERRCODE and nothing else. -/
def Obligations.FailedCommandReportsAndWritesNothing : Prop :=
  ∀ s t : State, s.phase = .busy → engineTurn s = .next t → t.errcode ≠ 0x00 →
    t = { s with busy := false, phase := .idle, done := true, err := true, errcode := t.errcode }

/-- 40_control.md R126, 60_exceptions.md R232: the code reported is that of the first check that fails. -/
def Obligations.FirstFailedCheckIsReported : Prop :=
  ∀ s : State, s.phase = .busy →
    ∃ t, engineTurn s = .next t ∧ t.errcode = firstFailure (decode s.cmd) s

/-- 40_control.md R129: a busy block with no reset ahead reaches the engine's turn after no more steps than turns are given,
with the command still in flight, and the next step completes it. -/
def Obligations.BusyBlockCompletes : Prop :=
  ∀ s : State, s.phase = .busy → s.busy = true → Turn.reset ∉ s.schedule →
    ∃ k t u, k ≤ s.schedule.length ∧ runSteps k s = some t ∧ t.engineNext ∧ t.cmd = s.cmd ∧
      runSteps (k + 1) s = some u ∧ u.busy = false ∧ u.phase = .idle ∧ u.done = true

/-! ### The commands, where their checks pass -/

/-- 40_control.md R128: NOP. -/
def Obligations.NopChangesOnlyStatus : Prop :=
  ∀ s : State, exec .nop s = .next
    { s with busy := false, phase := .idle, done := true, err := false, errcode := 0x00 }

/-- 41_crc32.md R142: CRC32 puts the CRC of the source bytes into RESULT and stores nothing. -/
def Obligations.Crc32PutsTheChecksumInResult : Prop :=
  ∀ s : State, s.src.toNat + s.len.toNat ≤ s.cfg.bufBytes →
    exec .crc32 s = .next
      { s with
        result := crc32 (s.memRead s.src.toNat s.len.toNat)
        busy := false, phase := .idle, done := true, err := false, errcode := 0x00 }

/-- 43_prp.md R198: FEISTEL_FWD stores the permuted region at DST and LEN in RESULT. -/
def Obligations.FeistelFwdStoresThePermutedRegion : Prop :=
  ∀ s : State, s.rounds ≠ 0 → 1 ≤ s.klen.toNat → s.klen.toNat ≤ 64 →
    s.src.toNat + s.len.toNat ≤ s.cfg.bufBytes → s.dst.toNat + s.len.toNat ≤ s.cfg.bufBytes →
    s.kaddr.toNat + s.klen.toNat ≤ s.cfg.bufBytes →
    ∃ t out, exec .feistelFwd s = .next t ∧
      out = feistelFwd (s.memRead s.src.toNat s.len.toNat) (s.memRead s.kaddr.toNat s.klen.toNat) s.rounds.toNat ∧
      out.length = s.len.toNat ∧ s.StoredBy t s.dst.toNat out s.len

/-- 43_prp.md R199: FEISTEL_INV stores the inverse permutation of the region at DST and LEN in RESULT. -/
def Obligations.FeistelInvStoresThePermutedRegion : Prop :=
  ∀ s : State, s.rounds ≠ 0 → 1 ≤ s.klen.toNat → s.klen.toNat ≤ 64 →
    s.src.toNat + s.len.toNat ≤ s.cfg.bufBytes → s.dst.toNat + s.len.toNat ≤ s.cfg.bufBytes →
    s.kaddr.toNat + s.klen.toNat ≤ s.cfg.bufBytes →
    ∃ t out, exec .feistelInv s = .next t ∧
      out = feistelInv (s.memRead s.src.toNat s.len.toNat) (s.memRead s.kaddr.toNat s.klen.toNat) s.rounds.toNat ∧
      out.length = s.len.toNat ∧ s.StoredBy t s.dst.toNat out s.len

/-- 43_prp.md R200: PRF stores the PRF of the source bytes at DST and LEN in RESULT; any round number is allowed. -/
def Obligations.PrfStoresThePseudorandomBytes : Prop :=
  ∀ s : State, 1 ≤ s.klen.toNat → s.klen.toNat ≤ 64 →
    s.src.toNat + s.len.toNat ≤ s.cfg.bufBytes → s.dst.toNat + s.len.toNat ≤ s.cfg.bufBytes →
    s.kaddr.toNat + s.klen.toNat ≤ s.cfg.bufBytes →
    ∃ t out, exec .prf s = .next t ∧
      out = prf (s.memRead s.src.toNat s.len.toNat) (s.memRead s.kaddr.toNat s.klen.toNat) s.rounds ∧
      out.length = s.len.toNat ∧ s.StoredBy t s.dst.toNat out s.len

/-- 42_radix.md R161, R165: RADIX_B2D stores the D digits of the source bytes at DST, digit i as LE16 at DST + 2i, and D in
RESULT. -/
def Obligations.RadixB2dStoresTheDigits : Prop :=
  ∀ s : State, s.cfg.wf = true → 2 ≤ s.base.toNat → s.base.toNat ≤ 65536 →
    s.src.toNat + s.len.toNat ≤ s.cfg.bufBytes →
    s.dst.toNat + 2 * digitCount s.len.toNat s.base.toNat ≤ s.cfg.bufBytes →
    ∃ t d out, exec .radixB2d s = .next t ∧
      d = bytesToDigits (s.memRead s.src.toNat s.len.toNat) s.base.toNat ∧
      d.length = digitCount s.len.toNat s.base.toNat ∧ out = digitBytes d ∧ out.length = 2 * d.length ∧
      s.StoredBy t s.dst.toNat out t.result ∧ t.result.toNat = d.length ∧
      ∀ i, i < d.length → t.memRead16 (s.dst.toNat + 2 * i) = d.getD i 0

/-- 42_radix.md R164, R166: RADIX_D2B stores the value of the digit vector as LEN big-endian bytes at DST and LEN in
RESULT. -/
def Obligations.RadixD2bStoresTheBytes : Prop :=
  ∀ s : State, 2 ≤ s.base.toNat → s.base.toNat ≤ 65536 →
    s.src.toNat + 2 * s.xlen.toNat ≤ s.cfg.bufBytes → s.dst.toNat + s.len.toNat ≤ s.cfg.bufBytes →
    (∀ j, j < s.xlen.toNat → s.memRead16 (s.src.toNat + 2 * j) < s.base.toNat) →
    numBase s.base.toNat (s.readDigits s.src.toNat s.xlen.toNat) < 256 ^ s.len.toNat →
    ∃ t out, exec .radixD2b s = .next t ∧ out.length = s.len.toNat ∧
      numBe out = numBase s.base.toNat (s.readDigits s.src.toNat s.xlen.toNat) ∧
      s.StoredBy t s.dst.toNat out s.len

/-- 42_radix.md R167: RADIX_DCOUNT puts D(LEN, BASE) into RESULT and stores nothing. -/
def Obligations.RadixDcountPutsTheCountInResult : Prop :=
  ∀ s : State, s.cfg.wf = true → 2 ≤ s.base.toNat → s.base.toNat ≤ 65536 → s.len.toNat ≤ s.cfg.bufBytes →
    ∃ t, exec .radixDcount s = .next t ∧ t.result.toNat = digitCount s.len.toNat s.base.toNat ∧
      t = { s with
        result := t.result, busy := false, phase := .idle, done := true, err := false, errcode := 0x00 }

/-- 30_encoding.md R94: registers that a command does not name are ignored. From two states of one block that agree on BUF
and on the registers the command reads, the command reports the same code, leaves the same BUF, and a command that succeeds
and writes a result leaves the same RESULT. -/
def Obligations.UnnamedRegistersAreIgnored : Prop :=
  ∀ (i : Instr) (s s' t t' : State), s'.cfg = s.cfg → (∀ a, s'.bufByte a = s.bufByte a) →
    (∀ r ∈ i.registersRead, s'.readReg r = s.readReg r) →
    exec i s = .next t → exec i s' = .next t' →
    t'.errcode = t.errcode ∧ (∀ a, t'.bufByte a = t.bufByte a) ∧
    (i ≠ .nop → t.errcode = 0x00 → t'.result = t.result)

/-- 42_radix.md R168: RADIX_D2B of the digits that RADIX_B2D wrote, with the same BASE and LEN, succeeds and writes the
bytes back, wherever the host then points DST. -/
def Obligations.RadixCommandsRoundTrip : Prop :=
  ∀ (s t : State) (d : Word), s.cfg.wf = true → exec .radixB2d s = .next t → t.errcode = 0x00 →
    d.toNat + s.len.toNat ≤ s.cfg.bufBytes →
    ∃ u, exec .radixD2b { t with src := t.dst, xlen := t.result, dst := d } = .next u ∧ u.errcode = 0x00 ∧
      u.result = s.len ∧ ∀ i, i < s.len.toNat → u.bufByte (d.toNat + i) = s.bufByte (s.src.toNat + i)

/-- 43_prp.md R201: FEISTEL_INV undoes FEISTEL_FWD with the same key contents, KLEN and ROUNDS, wherever the host then points
DST, where the first command did not overwrite the key. -/
def Obligations.FeistelCommandsRoundTrip : Prop :=
  ∀ (s t : State) (d : Word), exec .feistelFwd s = .next t → t.errcode = 0x00 →
    (s.kaddr.toNat + s.klen.toNat ≤ s.dst.toNat ∨ s.dst.toNat + s.len.toNat ≤ s.kaddr.toNat) →
    d.toNat + s.len.toNat ≤ s.cfg.bufBytes →
    ∃ u, exec .feistelInv { t with src := t.dst, dst := d } = .next u ∧ u.errcode = 0x00 ∧
      u.result = s.len ∧ ∀ i, i < s.len.toNat → u.bufByte (d.toNat + i) = s.bufByte (s.src.toNat + i)

/-! ### The functions of the units -/

/-- 41_crc32.md R143: the table-driven CRC equals the bit-serial one. -/
def Obligations.CrcTableEqualsBitSerial : Prop :=
  ∀ m : List Byte, crc32 m = crc32Bitwise m

/-- 41_crc32.md R144: flipping any one bit of a byte string changes its CRC. -/
def Obligations.CrcDetectsEverySingleBitFlip : Prop :=
  ∀ (m : List Byte) (i k : Nat), i < m.length → k < 8 →
    crc32 (m.set i (m.getD i 0 ^^^ ((1 : Byte) <<< k))) ≠ crc32 m

/-- 42_radix.md R160: D(n, B) is the least d such that B^d ≥ 256^n. -/
def Obligations.DigitCountIsLeast : Prop :=
  ∀ n B : Nat, 2 ≤ B → 256 ^ n ≤ B ^ digitCount n B ∧ ∀ d, d < digitCount n B → B ^ d < 256 ^ n

/-- 42_radix.md R162: bytesToDigits gives exactly D digits, each below the base, the i-th being (v div B^(m-1-i)) mod B, and
together they stand for the number the bytes stand for. -/
def Obligations.DigitsStandForTheBytes : Prop :=
  ∀ (m : List Byte) (B : Nat), 2 ≤ B → B ≤ 65536 →
    (bytesToDigits m B).length = digitCount m.length B ∧
    (∀ d ∈ bytesToDigits m B, d < B) ∧
    (∀ i, i < digitCount m.length B →
      (bytesToDigits m B).getD i 0 = numBe m / B ^ (digitCount m.length B - 1 - i) % B) ∧
    numBase B (bytesToDigits m B) = numBe m

/-- 42_radix.md R163: the source's repeated long division, padded with leading zeros to D digits, gives the same digits. -/
def Obligations.LongDivisionGivesTheDigits : Prop :=
  ∀ (m : List Byte) (B : Nat), 2 ≤ B → B ≤ 65536 →
    (convertDigits (m.map BitVec.toNat) 256 B).length ≤ digitCount m.length B ∧
    bytesToDigits m B =
      List.replicate (digitCount m.length B - (convertDigits (m.map BitVec.toNat) 256 B).length) 0 ++
        convertDigits (m.map BitVec.toNat) 256 B

/-- 43_prp.md R190: the padded message is the message, the byte 0x80, zeros, and in its last 8 bytes the bit length,
big-endian; it is a whole number of 64-byte blocks, and the shortest such. The digest has 32 bytes. -/
def Obligations.ShaPaddingIsLeast : Prop :=
  ∀ m : List Byte, (shaPad m).take m.length = m ∧ (shaPad m)[m.length]? = some 0x80 ∧
    (∀ i, m.length < i → i + 8 < (shaPad m).length → (shaPad m)[i]? = some 0) ∧
    (shaPad m).drop ((shaPad m).length - 8) = be64 (8 * m.length) ∧
    (m.length < 2 ^ 61 → numBe ((shaPad m).drop ((shaPad m).length - 8)) = 8 * m.length) ∧
    (shaPad m).length % 64 = 0 ∧ m.length + 9 ≤ (shaPad m).length ∧ (shaPad m).length < m.length + 9 + 64 ∧
    (sha256 m).length = 32

/-- 43_prp.md R193: byte j of the PRF is byte (j mod 32) of the MAC for counter j div 32. -/
def Obligations.PrfBytesAreMacBytes : Prop :=
  ∀ (x k : List Byte) (r : Word), (prf x k r).length = x.length ∧
    ∀ j, j < x.length →
      (prf x k r).getD j 0 = (hmac k (x ++ be32 r ++ be32 (BitVec.ofNat 32 (j / 32)))).getD (j % 32) 0

/-- 43_prp.md R194: the cyclic xor, byte by byte. -/
def Obligations.CyclicXorBytes : Prop :=
  ∀ l f : List Byte,
    (f = [] → xorc l f = l) ∧
    (f ≠ [] → (xorc l f).length = l.length ∧
      ∀ i, i < l.length → (xorc l f).getD i 0 = l.getD i 0 ^^^ f.getD (i % f.length) 0)

/-- 43_prp.md R195: one round gives R followed by L ⊕ PRF(R, k, 0), and every number of rounds keeps the length. -/
def Obligations.FeistelForwardRound : Prop :=
  ∀ (m k : List Byte) (rho : Nat),
    feistelFwd m k 1 =
      m.drop (m.length / 2) ++ xorc (m.take (m.length / 2)) (prf (m.drop (m.length / 2)) k 0) ∧
    (feistelFwd m k rho).length = m.length

/-- 43_prp.md R201: the inverse undoes the forward permutation. -/
def Obligations.FeistelInverseUndoesForward : Prop :=
  ∀ (m k : List Byte) (rho : Nat), 1 ≤ k.length → k.length ≤ 64 → 1 ≤ rho →
    feistelInv (feistelFwd m k rho) k rho = m

/-- 43_prp.md R204: regions of at most one byte are unchanged by both permutations. -/
def Obligations.SmallRegionsAreUnchanged : Prop :=
  ∀ (m k : List Byte) (rho : Nat), m.length ≤ 1 → feistelFwd m k rho = m ∧ feistelInv m k rho = m

/-! ### Registers -/

/-- 10_state.md R24: a write to CTRL sets IE to bit 0 at all times; the reserved bits read as 0. -/
def Obligations.CtrlWriteKeepsOnlyTheEnable : Prop :=
  ∀ (s : State) (v : Word),
    s.hostAccess 0x0008 (.wr32 v) = ({ s with ie := v.getLsbD 0 }, .written) ∧
    (s.hostAccess 0x0008 (.wr32 v)).1.hostAccess 0x0008 .rd32 =
      ((s.hostAccess 0x0008 (.wr32 v)).1, .data (if v.getLsbD 0 then 1 else 0))

/-- 10_state.md R26: a write to STATUS clears DONE, ERR and DROP where bits 1, 2 and 3 are set, whatever BUSY is. -/
def Obligations.StatusWriteClearsItsFields : Prop :=
  ∀ (s : State) (v : Word),
    s.hostAccess 0x000C (.wr32 v) =
      ({ s with
        done := if v.getLsbD 1 then false else s.done
        err := if v.getLsbD 2 then false else s.err
        drop := if v.getLsbD 3 then false else s.drop }, .written)

/-- 10_state.md R25: what each bit of a STATUS read is; a read of STATUS has no side effect. -/
def Obligations.StatusReadShowsTheFields : Prop :=
  ∀ s : State, ∃ w, s.hostAccess 0x000C .rd32 = (s, .data w) ∧
    w.getLsbD 0 = s.busy ∧ w.getLsbD 1 = s.done ∧ w.getLsbD 2 = s.err ∧ w.getLsbD 3 = s.drop ∧
    w.extractLsb' 4 4 = 0 ∧ w.extractLsb' 8 8 = s.errcode ∧ w.extractLsb' 16 16 = 0

/-- 10_state.md R22, R23: ID and PARAM read their constants, ignore writes and are not affected by reset. -/
def Obligations.IdAndParamAreConstant : Prop :=
  ∀ (s : State) (v : Word), s.cfg.wf = true →
    s.hostAccess 0x0000 .rd32 = (s, .data 0x43504301) ∧ s.hostAccess 0x0000 (.wr32 v) = (s, .written) ∧
    s.hostAccess 0x0004 (.wr32 v) = (s, .written) ∧
    (∃ w, s.hostAccess 0x0004 .rd32 = (s, .data w) ∧ (w.extractLsb' 0 16).toNat = s.cfg.bufBytes ∧
      w.extractLsb' 16 8 = 64 ∧ w.extractLsb' 24 8 = 0 ∧
      s.resetEvent.hostAccess 0x0004 .rd32 = (s.resetEvent, .data w)) ∧
    s.resetEvent.hostAccess 0x0000 .rd32 = (s.resetEvent, .data 0x43504301)

/-- 10_state.md R27, R28, 40_control.md R123: in every state, busy or not, a read of CMD or of an operand register returns
all 32 bits it holds and changes nothing; an operand register written while BUSY = 0 stores all 32 bits, and nothing else
changes. -/
def Obligations.OperandRegistersStoreWhatIsWritten : Prop :=
  (∀ s : State,
    s.hostAccess 0x0010 .rd32 = (s, .data s.cmd) ∧ s.hostAccess 0x0014 .rd32 = (s, .data s.src) ∧
    s.hostAccess 0x0018 .rd32 = (s, .data s.dst) ∧ s.hostAccess 0x001C .rd32 = (s, .data s.len) ∧
    s.hostAccess 0x0020 .rd32 = (s, .data s.xlen) ∧ s.hostAccess 0x0024 .rd32 = (s, .data s.kaddr) ∧
    s.hostAccess 0x0028 .rd32 = (s, .data s.klen) ∧ s.hostAccess 0x002C .rd32 = (s, .data s.base) ∧
    s.hostAccess 0x0030 .rd32 = (s, .data s.rounds)) ∧
  ∀ (s : State) (r : Reg) (v : Word), s.busy = false → r.isOperand = true →
    ∃ t, s.hostAccess r.offset (.wr32 v) = (t, .written) ∧
      t.hostAccess r.offset .rd32 = (t, .data v) ∧
      (∀ r', r' ≠ r → t.readReg r' = s.readReg r') ∧
      { t with
        src := s.src, dst := s.dst, len := s.len, xlen := s.xlen, kaddr := s.kaddr, klen := s.klen, base := s.base,
        rounds := s.rounds } = s

/-- 10_state.md R29: RESULT reads the last result, in every state, and ignores host writes without counting them. -/
def Obligations.ResultIsReadOnly : Prop :=
  ∀ (s : State) (v : Word),
    s.hostAccess 0x0034 .rd32 = (s, .data s.result) ∧ s.hostAccess 0x0034 (.wr32 v) = (s, .written)

/-- 30_encoding.md R98, 60_exceptions.md R236: the acknowledge clears DONE, ERR and DROP and so IRQ, and keeps ERRCODE, BUSY
and all else. -/
def Obligations.AcknowledgeClearsTheCompletion : Prop :=
  ∀ s : State, s.hostAccess 0x000C (.wr32 0x0000000E) =
      ({ s with done := false, err := false, drop := false }, .written) ∧
    (s.hostAccess 0x000C (.wr32 0x0000000E)).1.irq = false ∧
    (s.hostAccess 0x000C (.wr32 0x0000000E)).1 = s.acknowledge

/-- 60_exceptions.md R234: in one step IRQ rises only by a completion, or by IE being set while DONE is 1. -/
def Obligations.IrqRisesOnlyByCompletionOrEnable : Prop :=
  ∀ s t : State, step s = .next t → s.irq = false → t.irq = true →
    (s.phase = .busy ∧ t.phase = .idle ∧ t.done = true) ∨
    (s.done = true ∧ t.done = true ∧ s.ie = false ∧ t.ie = true)

/-! ### Host accesses -/

/-- 60_exceptions.md R233, 20_memory.md R63: an access in the aperture is refused exactly for the three causes, and a refused
access changes no state. -/
def Obligations.BusErrorExactlyForItsCauses : Prop :=
  ∀ (s : State) (off : Nat) (op : BusOp), off < 0x10000 →
    ((∃ c, (s.hostAccess off op).2 = .busError c) ↔
      (0x38 ≤ off ∧ off < 0x8000) ∨ 0x8000 + s.cfg.bufBytes ≤ off ∨
      (off < 0x38 ∧ (op.width ≠ 4 ∨ off % 4 ≠ 0)) ∨
      (0x8000 ≤ off ∧ ((off - 0x8000) % op.width ≠ 0 ∨ s.cfg.bufBytes < off - 0x8000 + op.width))) ∧
    (∀ c, (s.hostAccess off op).2 = .busError c → (s.hostAccess off op).1 = s)

/-- 20_memory.md R62: an accepted write to BUF while idle stores byte k of the value at a + k and nothing else. -/
def Obligations.BufWriteStoresLittleEndian : Prop :=
  ∀ (s : State) (a : Nat) (op : BusOp) (v : Word), s.busy = false → op.value? = some v → a % op.width = 0 →
    a + op.width ≤ s.cfg.bufBytes →
    ∃ t, s.hostAccess (0x8000 + a) op = (t, .written) ∧
      (∀ k, k < op.width → t.bufByte (a + k) = v.extractLsb' (8 * k) 8) ∧
      (∀ x, x < a ∨ a + op.width ≤ x → t.bufByte x = s.bufByte x) ∧
      { t with buf := s.buf } = s

/-- 20_memory.md R62, R64: an accepted read of BUF while idle returns the little-endian value of its bytes, zero-extended,
and changes nothing. -/
def Obligations.BufReadReturnsLittleEndian : Prop :=
  ∀ (s : State) (a : Nat) (op : BusOp), s.busy = false → op.value? = none → a % op.width = 0 →
    a + op.width ≤ s.cfg.bufBytes →
    ∃ w, s.hostAccess (0x8000 + a) op = (s, .data w) ∧
      w.toNat = ((List.range op.width).map fun k => 256 ^ k * (s.bufByte (a + k)).toNat).sum ∧
      ∀ k, k < op.width → w.extractLsb' (8 * k) 8 = s.bufByte (a + k)

/-- 40_control.md R123: a read of BUF while busy returns in each byte a free value, drawn afresh, and changes no state of the
block. It rests on no value of `Config.busyByte`; the draw counter is the model's (log 3). -/
def Obligations.BufReadWhileBusyIsFree : Prop :=
  ∀ (s : State) (a : Nat) (op : BusOp), s.busy = true → op.value? = none → a % op.width = 0 →
    a + op.width ≤ s.cfg.bufBytes →
    ∃ w, s.hostAccess (0x8000 + a) op = ({ s with draws := s.draws + op.width }, .data w) ∧
      ∀ k, k < op.width → w.extractLsb' (8 * k) 8 = Config.busyByte (s.draws + k)

/-- 20_memory.md R69: no read has a side effect on the block; while idle it changes nothing at all. -/
def Obligations.ReadsHaveNoSideEffect : Prop :=
  ∀ (s : State) (off : Nat) (op : BusOp), op.value? = none →
    { (s.hostAccess off op).1 with draws := s.draws } = s ∧
    (s.busy = false → (s.hostAccess off op).1 = s)

/-- 20_memory.md R74, 60_exceptions.md R240: of two CMD writes that both meet an idle block, the first is accepted and the
second dropped with DROP set. -/
def Obligations.SecondCommandWriteIsDropped : Prop :=
  ∀ (s : State) (v w : Word), s.busy = false →
    (s.hostAccess 0x0010 (.wr32 v)).1.hostAccess 0x0010 (.wr32 w) =
      ({ (s.hostAccess 0x0010 (.wr32 v)).1 with drop := true }, .written) ∧
    ((s.hostAccess 0x0010 (.wr32 v)).1.hostAccess 0x0010 (.wr32 w)).1.cmd = v

/-! ### Hosts and turns -/

/-- 20_memory.md R72: with HOST_ORDER true a host goes through its program in order. A step records at most one access; one
recorded for host `h` is that of the oldest item of its program; a step leaves the program, takes its oldest item off, or
ends it, and ends it only with the record of a BusError; and an access of the aperture is taken off only with its record.
Programs are the model's form of a host (log 7), the record and the end of a run too (log 14, log 8). -/
def Obligations.HostOrderKeepsProgramOrder : Prop :=
  ∀ (s t : State) (h : Nat) (p : List HostItem), s.cfg.hostOrder = true → step s = .next t →
    s.programs[h]? = some p →
    (t.trace = s.trace ∨ ∃ x, t.trace = x :: s.trace) ∧
    (∀ x, t.trace = x :: s.trace → x.host = h →
      p.head? = some (.access x.access) ∨ (p.head? = some .wait ∧ x.access = statusRead s.cfg)) ∧
    ∃ q, t.programs[h]? = some q ∧
      (q = p ∨ q = p.tail ∨ (q = [] ∧ ∃ x c, t.trace = x :: s.trace ∧ x.host = h ∧ x.reply = .busError c)) ∧
      ∀ a off, p.head? = some (.access a) → s.cfg.offset? a.addr = some off → q ≠ p →
        ∃ rep, t.trace = ⟨h, a, rep⟩ :: s.trace

/-- 70_reset_and_hazards.md R267, 20_memory.md R72: no item passes a barrier that stands before it, and a barrier passes
nothing, under either HOST_ORDER. -/
def Obligations.NothingPassesABarrier : Prop :=
  ∀ (s : State) (h j k : Nat) (p : List HostItem), s.programs[h]? = some p → j ≤ k → 0 < k →
    p[j]? = some .barrier → s.hostTurn h k = s

/-- 30_encoding.md R98, 70_reset_and_hazards.md R263: the `wait` loop of a host stays while BUSY = 1 and ends when it reads
BUSY = 0; apart from the record of its read it changes nothing else. -/
def Obligations.WaitEndsExactlyWhenIdle : Prop :=
  ∀ (s : State) (h : Nat) (rest : List HostItem), s.programs[h]? = some (.wait :: rest) →
    s.hostTurn h 0 =
      { s with
        programs := if s.busy then s.programs else s.programs.set h rest
        trace := ⟨h, statusRead s.cfg, .data s.statusWord⟩ :: s.trace }

/-- 20_memory.md R63, U4: a refused access ends that host's run with the fault recorded and changes nothing else. How a run
ends is the model's form (log 8). -/
def Obligations.BusErrorEndsTheHostsRun : Prop :=
  ∀ (s : State) (h off : Nat) (a : Access) (rest : List HostItem) (c : BusCause),
    s.programs[h]? = some (.access a :: rest) → s.cfg.offset? a.addr = some off →
    (s.hostAccess off a.op).2 = .busError c →
    s.hostTurn h 0 =
      { s with programs := s.programs.set h [], trace := ⟨h, a, .busError c⟩ :: s.trace }

/-- 20_memory.md R63, U4: no step is refused, and a step ends in a fault only where nothing can move and the fault is a
BusError on the record (log 8). -/
def Obligations.RunEndsOnlyOnARecordedBusError : Prop :=
  ∀ s : State, (∀ r, step s ≠ .refused r) ∧
    ∀ f, step s = .fault f → s.schedule = [] ∧ s.phase = .idle ∧ s.nextHost? = none ∧
      ∃ t ∈ s.trace, ∃ c, t.reply = .busError c ∧ f = .busError t.host c

/-! ### Reset and invariants -/

/-- 70_reset_and_hazards.md R260, R261: the reset event. Every byte of BUF is then the free value of this reset; the rest of
the state is the model's and stays (log 11). -/
def Obligations.ResetEventSetsTheResetValues : Prop :=
  ∀ (s : State) (rest : List Turn), s.schedule = .reset :: rest →
    ∃ t, step s = .next t ∧
      t = { s with
        phase := .idle, ie := false, busy := false, done := false, err := false, drop := false, errcode := 0x00,
        cmd := 0, src := 0, dst := 0, len := 0, xlen := 0, kaddr := 0, klen := 0, base := 0, rounds := 0, result := 0,
        buf := t.buf, resets := s.resets + 1, schedule := rest } ∧
      (∀ a, t.bufByte a = Config.resetByte (s.resets + 1) a) ∧ t.irq = false

/-- 70_reset_and_hazards.md R262: right after reset CRC32 succeeds with result 0, and RADIX_B2D fails with BAD_BASE, in a
block with any parameters. -/
def Obligations.CommandsRightAfterReset : Prop :=
  ∀ c : Config, ∃ t u,
    step ((State.resetOf c).withFetchWord 32 0x10) = .next t ∧ t.result = 0 ∧ t.errcode = 0x00 ∧
    step ((State.resetOf c).withFetchWord 32 0x30) = .next u ∧ u.errcode = 0x02

/-- 10_state.md R37, 70_reset_and_hazards.md R260: the reset state is legal, with any well-formed parameters. The clause of
`Legal` that the byte store is canonical is the model's own form of BUF (DESIGN CHOICE, log 4), not a rule of the spec. -/
def Obligations.ResetStateIsLegal : Prop :=
  State.reset.Legal ∧ ∀ c : Config, c.wf = true → (State.resetOf c).Legal

/-- 10_state.md R25, R31, R37, 40_control.md R122, 60_exceptions.md R230: every step from a legal state leads to a legal
state. The clause of `Legal` that the byte store is canonical is the model's own form of BUF (DESIGN CHOICE, log 4), not a
rule of the spec. -/
def Obligations.EveryStepKeepsLegalStates : Prop :=
  ∀ s t : State, s.Legal → step s = .next t → t.Legal

/-- 10_state.md R22, R23, 00_scope.md R7: no step changes the parameters of the block. That no step, a reset among them, changes the
number of its hosts is the model's choice, not a rule of the spec: hosts are held as lists (log 7), and a reset keeps them
(log 11). -/
def Obligations.NoStepChangesTheParameters : Prop :=
  ∀ s t : State, step s = .next t → t.cfg = s.cfg ∧ t.programs.length = s.programs.length
end

