-- ==== Sys2Proof/Laws/Memory.lean ====
section
/-! SUPPORT. The laws of the byte store: read after write, and that every operation keeps the canonical form. -/

namespace Sys2Proof.Machine

@[simp] theorem lookup_nil (a : Nat) : Memory.lookup [] a = none := rfl

theorem lookup_insert (m : Memory) (a : Nat) (b : Byte) (x : Nat) :
    Memory.lookup (Memory.insert m a b) x = if x = a then some b else Memory.lookup m x := by
  induction m with
  | nil => simp [Memory.insert, Memory.lookup]
  | cons c m ih =>
    obtain ⟨y, v⟩ := c
    simp only [Memory.insert]
    split
    · simp [Memory.lookup]
    · split
      · rename_i h
        subst h
        by_cases hx : x = a <;> simp [Memory.lookup, hx]
      · rename_i h1 h2
        by_cases hy : x = y
        · subst hy
          simp [Memory.lookup, Ne.symm h2]
        · simp [Memory.lookup, hy, ih]

/-- What a store of several bytes does to every address. -/
theorem lookup_writeBytes (m : Memory) (a : Nat) (bs : List Byte) (x : Nat) :
    Memory.lookup (Memory.writeBytes m a bs) x =
      if a ≤ x ∧ x < a + bs.length then bs[x - a]? else Memory.lookup m x := by
  induction bs generalizing m a with
  | nil =>
    have h : ¬(a ≤ x ∧ x < a + ([] : List Byte).length) := by simp
    rw [if_neg h]
    rfl
  | cons b bs ih =>
    rw [Memory.writeBytes, ih, lookup_insert]
    simp only [List.length_cons]
    by_cases h1 : x = a
    · subst h1
      simp
    · by_cases h2 : a + 1 ≤ x ∧ x < a + 1 + bs.length
      · have h3 : a ≤ x ∧ x < a + (bs.length + 1) := by omega
        have h4 : x - a = x - (a + 1) + 1 := by omega
        rw [if_pos h2, if_pos h3, h4, List.getElem?_cons_succ]
      · have h3 : ¬(a ≤ x ∧ x < a + (bs.length + 1)) := by omega
        rw [if_neg h2, if_neg h3, if_neg h1]

theorem risingFrom_mono {lo lo' : Nat} (h : lo' ≤ lo) {m : Memory} (hm : Memory.risingFrom lo m = true) :
    Memory.risingFrom lo' m = true := by
  cases m with
  | nil => rfl
  | cons c m =>
    simp only [Memory.risingFrom, Bool.and_eq_true, decide_eq_true_eq] at hm ⊢
    exact ⟨by omega, hm.2⟩

theorem risingFrom_insert {lo : Nat} {m : Memory} {a : Nat} (b : Byte) (hm : Memory.risingFrom lo m = true)
    (ha : lo ≤ a) : Memory.risingFrom lo (Memory.insert m a b) = true := by
  induction m generalizing lo with
  | nil => simp [Memory.insert, Memory.risingFrom, ha]
  | cons c m ih =>
    obtain ⟨x, y⟩ := c
    simp only [Memory.risingFrom, Bool.and_eq_true, decide_eq_true_eq] at hm
    simp only [Memory.insert]
    split
    · simp only [Memory.risingFrom, Bool.and_eq_true, decide_eq_true_eq]
      exact ⟨ha, by omega, hm.2⟩
    · split
      · rename_i h
        subst h
        simp only [Memory.risingFrom, Bool.and_eq_true, decide_eq_true_eq]
        exact ⟨ha, hm.2⟩
      · simp only [Memory.risingFrom, Bool.and_eq_true, decide_eq_true_eq]
        exact ⟨hm.1, ih hm.2 (by omega)⟩

theorem wf_insert {m : Memory} (a : Nat) (b : Byte) (hm : m.wf = true) : (Memory.insert m a b).wf = true :=
  risingFrom_insert b hm (Nat.zero_le a)

theorem wf_writeBytes {m : Memory} (a : Nat) (bs : List Byte) (hm : m.wf = true) :
    (Memory.writeBytes m a bs).wf = true := by
  induction bs generalizing m a with
  | nil => exact hm
  | cons b bs ih => exact ih (a + 1) (wf_insert a b hm)

theorem wf_nil : Memory.wf [] = true := rfl

theorem below_insert {n : Nat} {m : Memory} {a : Nat} (b : Byte) (hm : m.below n = true) (ha : a < n) :
    (Memory.insert m a b).below n = true := by
  induction m with
  | nil => simp [Memory.insert, Memory.below, ha]
  | cons c m ih =>
    obtain ⟨x, y⟩ := c
    simp only [Memory.below, List.all_cons, Bool.and_eq_true, decide_eq_true_eq] at hm ih
    simp only [Memory.insert]
    split
    · simp [Memory.below, ha, hm.1]
      simpa using hm.2
    · split
      · simp [Memory.below, ha]
        simpa using hm.2
      · simp only [Memory.below, List.all_cons, Bool.and_eq_true, decide_eq_true_eq]
        exact ⟨hm.1, ih hm.2⟩

theorem below_writeBytes {n : Nat} {m : Memory} {a : Nat} {bs : List Byte} (hm : m.below n = true)
    (ha : a + bs.length ≤ n) : (Memory.writeBytes m a bs).below n = true := by
  induction bs generalizing m a with
  | nil => exact hm
  | cons b bs ih =>
    simp only [List.length_cons] at ha
    exact ih (below_insert b hm (by omega)) (by omega)

theorem lookup_of_lt_rising {lo : Nat} {m : Memory} (hm : Memory.risingFrom lo m = true) {a : Nat} (ha : a < lo) :
    Memory.lookup m a = none := by
  induction m generalizing lo with
  | nil => rfl
  | cons c m ih =>
    obtain ⟨x, y⟩ := c
    simp only [Memory.risingFrom, Bool.and_eq_true, decide_eq_true_eq] at hm
    have h : a ≠ x := by omega
    simp [Memory.lookup, h, ih hm.2 (by omega)]

/-- The canonical form is one form: stores that agree at every address are the same list. -/
theorem eq_of_lookup_eq {lo : Nat} {m m' : Memory} (hm : Memory.risingFrom lo m = true)
    (hm' : Memory.risingFrom lo m' = true) (h : ∀ a, Memory.lookup m a = Memory.lookup m' a) : m = m' := by
  induction m generalizing lo m' with
  | nil =>
    cases m' with
    | nil => rfl
    | cons c m' =>
      have := h c.1
      simp [Memory.lookup] at this
  | cons c m ih =>
    obtain ⟨x, y⟩ := c
    cases m' with
    | nil =>
      have := h x
      simp [Memory.lookup] at this
    | cons c' m' =>
      obtain ⟨x', y'⟩ := c'
      simp only [Memory.risingFrom, Bool.and_eq_true, decide_eq_true_eq] at hm hm'
      have hx : x = x' := by
        rcases Nat.lt_trichotomy x x' with hlt | heq | hgt
        · have h1 := h x
          have h2 := lookup_of_lt_rising hm'.2 (a := x) (by omega)
          have h3 : x ≠ x' := by omega
          simp [Memory.lookup, h3, h2] at h1
        · exact heq
        · have h1 := h x'
          have h2 := lookup_of_lt_rising hm.2 (a := x') (by omega)
          have h3 : x' ≠ x := by omega
          simp [Memory.lookup, h3, h2] at h1
      subst hx
      have hy : y = y' := by simpa [Memory.lookup] using h x
      subst hy
      have htail : ∀ a, Memory.lookup m a = Memory.lookup m' a := by
        intro a
        by_cases ha : a = x
        · subst ha
          rw [lookup_of_lt_rising hm.2 (by omega), lookup_of_lt_rising hm'.2 (by omega)]
        · simpa [Memory.lookup, ha] using h a
      rw [ih hm.2 hm'.2 htail]

theorem memory_ext {m m' : Memory} (hm : m.wf = true) (hm' : m'.wf = true)
    (h : ∀ a, Memory.lookup m a = Memory.lookup m' a) : m = m' :=
  eq_of_lookup_eq hm hm' h

end Sys2Proof.Machine
end

