-- ==== Sys2Proof/Laws/State.lean ====
section
/-! SUPPORT. What each update of State does to each field: one lemma per field and update, so that no later proof unfolds a
record update. -/

namespace Sys2Proof.Machine

/-! ### The CTRL write -/

@[simp] theorem writeCtrl_ie (s : State) (v : Word) :
    (s.writeCtrl v).ie = v.getLsbD 0 := rfl
@[simp] theorem writeCtrl_busy (s : State) (v : Word) :
    (s.writeCtrl v).busy = s.busy := rfl
@[simp] theorem writeCtrl_done (s : State) (v : Word) :
    (s.writeCtrl v).done = s.done := rfl
@[simp] theorem writeCtrl_err (s : State) (v : Word) :
    (s.writeCtrl v).err = s.err := rfl
@[simp] theorem writeCtrl_drop (s : State) (v : Word) :
    (s.writeCtrl v).drop = s.drop := rfl
@[simp] theorem writeCtrl_errcode (s : State) (v : Word) :
    (s.writeCtrl v).errcode = s.errcode := rfl
@[simp] theorem writeCtrl_cmd (s : State) (v : Word) :
    (s.writeCtrl v).cmd = s.cmd := rfl
@[simp] theorem writeCtrl_src (s : State) (v : Word) :
    (s.writeCtrl v).src = s.src := rfl
@[simp] theorem writeCtrl_dst (s : State) (v : Word) :
    (s.writeCtrl v).dst = s.dst := rfl
@[simp] theorem writeCtrl_len (s : State) (v : Word) :
    (s.writeCtrl v).len = s.len := rfl
@[simp] theorem writeCtrl_xlen (s : State) (v : Word) :
    (s.writeCtrl v).xlen = s.xlen := rfl
@[simp] theorem writeCtrl_kaddr (s : State) (v : Word) :
    (s.writeCtrl v).kaddr = s.kaddr := rfl
@[simp] theorem writeCtrl_klen (s : State) (v : Word) :
    (s.writeCtrl v).klen = s.klen := rfl
@[simp] theorem writeCtrl_base (s : State) (v : Word) :
    (s.writeCtrl v).base = s.base := rfl
@[simp] theorem writeCtrl_rounds (s : State) (v : Word) :
    (s.writeCtrl v).rounds = s.rounds := rfl
@[simp] theorem writeCtrl_result (s : State) (v : Word) :
    (s.writeCtrl v).result = s.result := rfl
@[simp] theorem writeCtrl_phase (s : State) (v : Word) :
    (s.writeCtrl v).phase = s.phase := rfl
@[simp] theorem writeCtrl_buf (s : State) (v : Word) :
    (s.writeCtrl v).buf = s.buf := rfl
@[simp] theorem writeCtrl_cfg (s : State) (v : Word) :
    (s.writeCtrl v).cfg = s.cfg := rfl
@[simp] theorem writeCtrl_resets (s : State) (v : Word) :
    (s.writeCtrl v).resets = s.resets := rfl
@[simp] theorem writeCtrl_draws (s : State) (v : Word) :
    (s.writeCtrl v).draws = s.draws := rfl
@[simp] theorem writeCtrl_programs (s : State) (v : Word) :
    (s.writeCtrl v).programs = s.programs := rfl
@[simp] theorem writeCtrl_schedule (s : State) (v : Word) :
    (s.writeCtrl v).schedule = s.schedule := rfl
@[simp] theorem writeCtrl_trace (s : State) (v : Word) :
    (s.writeCtrl v).trace = s.trace := rfl

/-! ### The STATUS write -/

@[simp] theorem writeStatus_ie (s : State) (v : Word) :
    (s.writeStatus v).ie = s.ie := rfl
@[simp] theorem writeStatus_busy (s : State) (v : Word) :
    (s.writeStatus v).busy = s.busy := rfl
@[simp] theorem writeStatus_done (s : State) (v : Word) :
    (s.writeStatus v).done = (s.done && !v.getLsbD 1) := rfl
@[simp] theorem writeStatus_err (s : State) (v : Word) :
    (s.writeStatus v).err = (s.err && !v.getLsbD 2) := rfl
@[simp] theorem writeStatus_drop (s : State) (v : Word) :
    (s.writeStatus v).drop = (s.drop && !v.getLsbD 3) := rfl
@[simp] theorem writeStatus_errcode (s : State) (v : Word) :
    (s.writeStatus v).errcode = s.errcode := rfl
@[simp] theorem writeStatus_cmd (s : State) (v : Word) :
    (s.writeStatus v).cmd = s.cmd := rfl
@[simp] theorem writeStatus_src (s : State) (v : Word) :
    (s.writeStatus v).src = s.src := rfl
@[simp] theorem writeStatus_dst (s : State) (v : Word) :
    (s.writeStatus v).dst = s.dst := rfl
@[simp] theorem writeStatus_len (s : State) (v : Word) :
    (s.writeStatus v).len = s.len := rfl
@[simp] theorem writeStatus_xlen (s : State) (v : Word) :
    (s.writeStatus v).xlen = s.xlen := rfl
@[simp] theorem writeStatus_kaddr (s : State) (v : Word) :
    (s.writeStatus v).kaddr = s.kaddr := rfl
@[simp] theorem writeStatus_klen (s : State) (v : Word) :
    (s.writeStatus v).klen = s.klen := rfl
@[simp] theorem writeStatus_base (s : State) (v : Word) :
    (s.writeStatus v).base = s.base := rfl
@[simp] theorem writeStatus_rounds (s : State) (v : Word) :
    (s.writeStatus v).rounds = s.rounds := rfl
@[simp] theorem writeStatus_result (s : State) (v : Word) :
    (s.writeStatus v).result = s.result := rfl
@[simp] theorem writeStatus_phase (s : State) (v : Word) :
    (s.writeStatus v).phase = s.phase := rfl
@[simp] theorem writeStatus_buf (s : State) (v : Word) :
    (s.writeStatus v).buf = s.buf := rfl
@[simp] theorem writeStatus_cfg (s : State) (v : Word) :
    (s.writeStatus v).cfg = s.cfg := rfl
@[simp] theorem writeStatus_resets (s : State) (v : Word) :
    (s.writeStatus v).resets = s.resets := rfl
@[simp] theorem writeStatus_draws (s : State) (v : Word) :
    (s.writeStatus v).draws = s.draws := rfl
@[simp] theorem writeStatus_programs (s : State) (v : Word) :
    (s.writeStatus v).programs = s.programs := rfl
@[simp] theorem writeStatus_schedule (s : State) (v : Word) :
    (s.writeStatus v).schedule = s.schedule := rfl
@[simp] theorem writeStatus_trace (s : State) (v : Word) :
    (s.writeStatus v).trace = s.trace := rfl

/-! ### A dropped write -/

@[simp] theorem setDrop_ie (s : State) :
    (s.setDrop).ie = s.ie := rfl
@[simp] theorem setDrop_busy (s : State) :
    (s.setDrop).busy = s.busy := rfl
@[simp] theorem setDrop_done (s : State) :
    (s.setDrop).done = s.done := rfl
@[simp] theorem setDrop_err (s : State) :
    (s.setDrop).err = s.err := rfl
@[simp] theorem setDrop_drop (s : State) :
    (s.setDrop).drop = true := rfl
@[simp] theorem setDrop_errcode (s : State) :
    (s.setDrop).errcode = s.errcode := rfl
@[simp] theorem setDrop_cmd (s : State) :
    (s.setDrop).cmd = s.cmd := rfl
@[simp] theorem setDrop_src (s : State) :
    (s.setDrop).src = s.src := rfl
@[simp] theorem setDrop_dst (s : State) :
    (s.setDrop).dst = s.dst := rfl
@[simp] theorem setDrop_len (s : State) :
    (s.setDrop).len = s.len := rfl
@[simp] theorem setDrop_xlen (s : State) :
    (s.setDrop).xlen = s.xlen := rfl
@[simp] theorem setDrop_kaddr (s : State) :
    (s.setDrop).kaddr = s.kaddr := rfl
@[simp] theorem setDrop_klen (s : State) :
    (s.setDrop).klen = s.klen := rfl
@[simp] theorem setDrop_base (s : State) :
    (s.setDrop).base = s.base := rfl
@[simp] theorem setDrop_rounds (s : State) :
    (s.setDrop).rounds = s.rounds := rfl
@[simp] theorem setDrop_result (s : State) :
    (s.setDrop).result = s.result := rfl
@[simp] theorem setDrop_phase (s : State) :
    (s.setDrop).phase = s.phase := rfl
@[simp] theorem setDrop_buf (s : State) :
    (s.setDrop).buf = s.buf := rfl
@[simp] theorem setDrop_cfg (s : State) :
    (s.setDrop).cfg = s.cfg := rfl
@[simp] theorem setDrop_resets (s : State) :
    (s.setDrop).resets = s.resets := rfl
@[simp] theorem setDrop_draws (s : State) :
    (s.setDrop).draws = s.draws := rfl
@[simp] theorem setDrop_programs (s : State) :
    (s.setDrop).programs = s.programs := rfl
@[simp] theorem setDrop_schedule (s : State) :
    (s.setDrop).schedule = s.schedule := rfl
@[simp] theorem setDrop_trace (s : State) :
    (s.setDrop).trace = s.trace := rfl

/-! ### The accept -/

@[simp] theorem accept_ie (s : State) (v : Word) :
    (s.accept v).ie = s.ie := rfl
@[simp] theorem accept_busy (s : State) (v : Word) :
    (s.accept v).busy = true := rfl
@[simp] theorem accept_done (s : State) (v : Word) :
    (s.accept v).done = false := rfl
@[simp] theorem accept_err (s : State) (v : Word) :
    (s.accept v).err = false := rfl
@[simp] theorem accept_drop (s : State) (v : Word) :
    (s.accept v).drop = s.drop := rfl
@[simp] theorem accept_errcode (s : State) (v : Word) :
    (s.accept v).errcode = 0x00 := rfl
@[simp] theorem accept_cmd (s : State) (v : Word) :
    (s.accept v).cmd = v := rfl
@[simp] theorem accept_src (s : State) (v : Word) :
    (s.accept v).src = s.src := rfl
@[simp] theorem accept_dst (s : State) (v : Word) :
    (s.accept v).dst = s.dst := rfl
@[simp] theorem accept_len (s : State) (v : Word) :
    (s.accept v).len = s.len := rfl
@[simp] theorem accept_xlen (s : State) (v : Word) :
    (s.accept v).xlen = s.xlen := rfl
@[simp] theorem accept_kaddr (s : State) (v : Word) :
    (s.accept v).kaddr = s.kaddr := rfl
@[simp] theorem accept_klen (s : State) (v : Word) :
    (s.accept v).klen = s.klen := rfl
@[simp] theorem accept_base (s : State) (v : Word) :
    (s.accept v).base = s.base := rfl
@[simp] theorem accept_rounds (s : State) (v : Word) :
    (s.accept v).rounds = s.rounds := rfl
@[simp] theorem accept_result (s : State) (v : Word) :
    (s.accept v).result = s.result := rfl
@[simp] theorem accept_phase (s : State) (v : Word) :
    (s.accept v).phase = .busy := rfl
@[simp] theorem accept_buf (s : State) (v : Word) :
    (s.accept v).buf = s.buf := rfl
@[simp] theorem accept_cfg (s : State) (v : Word) :
    (s.accept v).cfg = s.cfg := rfl
@[simp] theorem accept_resets (s : State) (v : Word) :
    (s.accept v).resets = s.resets := rfl
@[simp] theorem accept_draws (s : State) (v : Word) :
    (s.accept v).draws = s.draws := rfl
@[simp] theorem accept_programs (s : State) (v : Word) :
    (s.accept v).programs = s.programs := rfl
@[simp] theorem accept_schedule (s : State) (v : Word) :
    (s.accept v).schedule = s.schedule := rfl
@[simp] theorem accept_trace (s : State) (v : Word) :
    (s.accept v).trace = s.trace := rfl

/-! ### The STATUS update of a completion -/

@[simp] theorem finish_ie (s : State) (c : BitVec 8) :
    (s.finish c).ie = s.ie := rfl
@[simp] theorem finish_busy (s : State) (c : BitVec 8) :
    (s.finish c).busy = false := rfl
@[simp] theorem finish_done (s : State) (c : BitVec 8) :
    (s.finish c).done = true := rfl
@[simp] theorem finish_err (s : State) (c : BitVec 8) :
    (s.finish c).err = (c != 0x00) := rfl
@[simp] theorem finish_drop (s : State) (c : BitVec 8) :
    (s.finish c).drop = s.drop := rfl
@[simp] theorem finish_errcode (s : State) (c : BitVec 8) :
    (s.finish c).errcode = c := rfl
@[simp] theorem finish_cmd (s : State) (c : BitVec 8) :
    (s.finish c).cmd = s.cmd := rfl
@[simp] theorem finish_src (s : State) (c : BitVec 8) :
    (s.finish c).src = s.src := rfl
@[simp] theorem finish_dst (s : State) (c : BitVec 8) :
    (s.finish c).dst = s.dst := rfl
@[simp] theorem finish_len (s : State) (c : BitVec 8) :
    (s.finish c).len = s.len := rfl
@[simp] theorem finish_xlen (s : State) (c : BitVec 8) :
    (s.finish c).xlen = s.xlen := rfl
@[simp] theorem finish_kaddr (s : State) (c : BitVec 8) :
    (s.finish c).kaddr = s.kaddr := rfl
@[simp] theorem finish_klen (s : State) (c : BitVec 8) :
    (s.finish c).klen = s.klen := rfl
@[simp] theorem finish_base (s : State) (c : BitVec 8) :
    (s.finish c).base = s.base := rfl
@[simp] theorem finish_rounds (s : State) (c : BitVec 8) :
    (s.finish c).rounds = s.rounds := rfl
@[simp] theorem finish_result (s : State) (c : BitVec 8) :
    (s.finish c).result = s.result := rfl
@[simp] theorem finish_phase (s : State) (c : BitVec 8) :
    (s.finish c).phase = .idle := rfl
@[simp] theorem finish_buf (s : State) (c : BitVec 8) :
    (s.finish c).buf = s.buf := rfl
@[simp] theorem finish_cfg (s : State) (c : BitVec 8) :
    (s.finish c).cfg = s.cfg := rfl
@[simp] theorem finish_resets (s : State) (c : BitVec 8) :
    (s.finish c).resets = s.resets := rfl
@[simp] theorem finish_draws (s : State) (c : BitVec 8) :
    (s.finish c).draws = s.draws := rfl
@[simp] theorem finish_programs (s : State) (c : BitVec 8) :
    (s.finish c).programs = s.programs := rfl
@[simp] theorem finish_schedule (s : State) (c : BitVec 8) :
    (s.finish c).schedule = s.schedule := rfl
@[simp] theorem finish_trace (s : State) (c : BitVec 8) :
    (s.finish c).trace = s.trace := rfl

/-! ### A store to BUF -/

@[simp] theorem storeBytes_ie (s : State) (a : Nat) (bs : List Byte) :
    (s.storeBytes a bs).ie = s.ie := rfl
@[simp] theorem storeBytes_busy (s : State) (a : Nat) (bs : List Byte) :
    (s.storeBytes a bs).busy = s.busy := rfl
@[simp] theorem storeBytes_done (s : State) (a : Nat) (bs : List Byte) :
    (s.storeBytes a bs).done = s.done := rfl
@[simp] theorem storeBytes_err (s : State) (a : Nat) (bs : List Byte) :
    (s.storeBytes a bs).err = s.err := rfl
@[simp] theorem storeBytes_drop (s : State) (a : Nat) (bs : List Byte) :
    (s.storeBytes a bs).drop = s.drop := rfl
@[simp] theorem storeBytes_errcode (s : State) (a : Nat) (bs : List Byte) :
    (s.storeBytes a bs).errcode = s.errcode := rfl
@[simp] theorem storeBytes_cmd (s : State) (a : Nat) (bs : List Byte) :
    (s.storeBytes a bs).cmd = s.cmd := rfl
@[simp] theorem storeBytes_src (s : State) (a : Nat) (bs : List Byte) :
    (s.storeBytes a bs).src = s.src := rfl
@[simp] theorem storeBytes_dst (s : State) (a : Nat) (bs : List Byte) :
    (s.storeBytes a bs).dst = s.dst := rfl
@[simp] theorem storeBytes_len (s : State) (a : Nat) (bs : List Byte) :
    (s.storeBytes a bs).len = s.len := rfl
@[simp] theorem storeBytes_xlen (s : State) (a : Nat) (bs : List Byte) :
    (s.storeBytes a bs).xlen = s.xlen := rfl
@[simp] theorem storeBytes_kaddr (s : State) (a : Nat) (bs : List Byte) :
    (s.storeBytes a bs).kaddr = s.kaddr := rfl
@[simp] theorem storeBytes_klen (s : State) (a : Nat) (bs : List Byte) :
    (s.storeBytes a bs).klen = s.klen := rfl
@[simp] theorem storeBytes_base (s : State) (a : Nat) (bs : List Byte) :
    (s.storeBytes a bs).base = s.base := rfl
@[simp] theorem storeBytes_rounds (s : State) (a : Nat) (bs : List Byte) :
    (s.storeBytes a bs).rounds = s.rounds := rfl
@[simp] theorem storeBytes_result (s : State) (a : Nat) (bs : List Byte) :
    (s.storeBytes a bs).result = s.result := rfl
@[simp] theorem storeBytes_phase (s : State) (a : Nat) (bs : List Byte) :
    (s.storeBytes a bs).phase = s.phase := rfl
@[simp] theorem storeBytes_buf (s : State) (a : Nat) (bs : List Byte) :
    (s.storeBytes a bs).buf = s.buf.writeBytes a bs := rfl
@[simp] theorem storeBytes_cfg (s : State) (a : Nat) (bs : List Byte) :
    (s.storeBytes a bs).cfg = s.cfg := rfl
@[simp] theorem storeBytes_resets (s : State) (a : Nat) (bs : List Byte) :
    (s.storeBytes a bs).resets = s.resets := rfl
@[simp] theorem storeBytes_draws (s : State) (a : Nat) (bs : List Byte) :
    (s.storeBytes a bs).draws = s.draws := rfl
@[simp] theorem storeBytes_programs (s : State) (a : Nat) (bs : List Byte) :
    (s.storeBytes a bs).programs = s.programs := rfl
@[simp] theorem storeBytes_schedule (s : State) (a : Nat) (bs : List Byte) :
    (s.storeBytes a bs).schedule = s.schedule := rfl
@[simp] theorem storeBytes_trace (s : State) (a : Nat) (bs : List Byte) :
    (s.storeBytes a bs).trace = s.trace := rfl

/-! ### The RESULT update of a completion -/

@[simp] theorem setResult_ie (s : State) (r : Option Word) :
    (s.setResult r).ie = s.ie := rfl
@[simp] theorem setResult_busy (s : State) (r : Option Word) :
    (s.setResult r).busy = s.busy := rfl
@[simp] theorem setResult_done (s : State) (r : Option Word) :
    (s.setResult r).done = s.done := rfl
@[simp] theorem setResult_err (s : State) (r : Option Word) :
    (s.setResult r).err = s.err := rfl
@[simp] theorem setResult_drop (s : State) (r : Option Word) :
    (s.setResult r).drop = s.drop := rfl
@[simp] theorem setResult_errcode (s : State) (r : Option Word) :
    (s.setResult r).errcode = s.errcode := rfl
@[simp] theorem setResult_cmd (s : State) (r : Option Word) :
    (s.setResult r).cmd = s.cmd := rfl
@[simp] theorem setResult_src (s : State) (r : Option Word) :
    (s.setResult r).src = s.src := rfl
@[simp] theorem setResult_dst (s : State) (r : Option Word) :
    (s.setResult r).dst = s.dst := rfl
@[simp] theorem setResult_len (s : State) (r : Option Word) :
    (s.setResult r).len = s.len := rfl
@[simp] theorem setResult_xlen (s : State) (r : Option Word) :
    (s.setResult r).xlen = s.xlen := rfl
@[simp] theorem setResult_kaddr (s : State) (r : Option Word) :
    (s.setResult r).kaddr = s.kaddr := rfl
@[simp] theorem setResult_klen (s : State) (r : Option Word) :
    (s.setResult r).klen = s.klen := rfl
@[simp] theorem setResult_base (s : State) (r : Option Word) :
    (s.setResult r).base = s.base := rfl
@[simp] theorem setResult_rounds (s : State) (r : Option Word) :
    (s.setResult r).rounds = s.rounds := rfl
@[simp] theorem setResult_result (s : State) (r : Option Word) :
    (s.setResult r).result = r.getD s.result := rfl
@[simp] theorem setResult_phase (s : State) (r : Option Word) :
    (s.setResult r).phase = s.phase := rfl
@[simp] theorem setResult_buf (s : State) (r : Option Word) :
    (s.setResult r).buf = s.buf := rfl
@[simp] theorem setResult_cfg (s : State) (r : Option Word) :
    (s.setResult r).cfg = s.cfg := rfl
@[simp] theorem setResult_resets (s : State) (r : Option Word) :
    (s.setResult r).resets = s.resets := rfl
@[simp] theorem setResult_draws (s : State) (r : Option Word) :
    (s.setResult r).draws = s.draws := rfl
@[simp] theorem setResult_programs (s : State) (r : Option Word) :
    (s.setResult r).programs = s.programs := rfl
@[simp] theorem setResult_schedule (s : State) (r : Option Word) :
    (s.setResult r).schedule = s.schedule := rfl
@[simp] theorem setResult_trace (s : State) (r : Option Word) :
    (s.setResult r).trace = s.trace := rfl

/-! ### The update of one host program -/

@[simp] theorem setProgram_ie (s : State) (h : Nat) (p : List HostItem) :
    (s.setProgram h p).ie = s.ie := rfl
@[simp] theorem setProgram_busy (s : State) (h : Nat) (p : List HostItem) :
    (s.setProgram h p).busy = s.busy := rfl
@[simp] theorem setProgram_done (s : State) (h : Nat) (p : List HostItem) :
    (s.setProgram h p).done = s.done := rfl
@[simp] theorem setProgram_err (s : State) (h : Nat) (p : List HostItem) :
    (s.setProgram h p).err = s.err := rfl
@[simp] theorem setProgram_drop (s : State) (h : Nat) (p : List HostItem) :
    (s.setProgram h p).drop = s.drop := rfl
@[simp] theorem setProgram_errcode (s : State) (h : Nat) (p : List HostItem) :
    (s.setProgram h p).errcode = s.errcode := rfl
@[simp] theorem setProgram_cmd (s : State) (h : Nat) (p : List HostItem) :
    (s.setProgram h p).cmd = s.cmd := rfl
@[simp] theorem setProgram_src (s : State) (h : Nat) (p : List HostItem) :
    (s.setProgram h p).src = s.src := rfl
@[simp] theorem setProgram_dst (s : State) (h : Nat) (p : List HostItem) :
    (s.setProgram h p).dst = s.dst := rfl
@[simp] theorem setProgram_len (s : State) (h : Nat) (p : List HostItem) :
    (s.setProgram h p).len = s.len := rfl
@[simp] theorem setProgram_xlen (s : State) (h : Nat) (p : List HostItem) :
    (s.setProgram h p).xlen = s.xlen := rfl
@[simp] theorem setProgram_kaddr (s : State) (h : Nat) (p : List HostItem) :
    (s.setProgram h p).kaddr = s.kaddr := rfl
@[simp] theorem setProgram_klen (s : State) (h : Nat) (p : List HostItem) :
    (s.setProgram h p).klen = s.klen := rfl
@[simp] theorem setProgram_base (s : State) (h : Nat) (p : List HostItem) :
    (s.setProgram h p).base = s.base := rfl
@[simp] theorem setProgram_rounds (s : State) (h : Nat) (p : List HostItem) :
    (s.setProgram h p).rounds = s.rounds := rfl
@[simp] theorem setProgram_result (s : State) (h : Nat) (p : List HostItem) :
    (s.setProgram h p).result = s.result := rfl
@[simp] theorem setProgram_phase (s : State) (h : Nat) (p : List HostItem) :
    (s.setProgram h p).phase = s.phase := rfl
@[simp] theorem setProgram_buf (s : State) (h : Nat) (p : List HostItem) :
    (s.setProgram h p).buf = s.buf := rfl
@[simp] theorem setProgram_cfg (s : State) (h : Nat) (p : List HostItem) :
    (s.setProgram h p).cfg = s.cfg := rfl
@[simp] theorem setProgram_resets (s : State) (h : Nat) (p : List HostItem) :
    (s.setProgram h p).resets = s.resets := rfl
@[simp] theorem setProgram_draws (s : State) (h : Nat) (p : List HostItem) :
    (s.setProgram h p).draws = s.draws := rfl
@[simp] theorem setProgram_programs (s : State) (h : Nat) (p : List HostItem) :
    (s.setProgram h p).programs = s.programs.set h p := rfl
@[simp] theorem setProgram_schedule (s : State) (h : Nat) (p : List HostItem) :
    (s.setProgram h p).schedule = s.schedule := rfl
@[simp] theorem setProgram_trace (s : State) (h : Nat) (p : List HostItem) :
    (s.setProgram h p).trace = s.trace := rfl

/-! ### The reset event -/

@[simp] theorem resetEvent_ie (s : State) :
    (s.resetEvent).ie = false := rfl
@[simp] theorem resetEvent_busy (s : State) :
    (s.resetEvent).busy = false := rfl
@[simp] theorem resetEvent_done (s : State) :
    (s.resetEvent).done = false := rfl
@[simp] theorem resetEvent_err (s : State) :
    (s.resetEvent).err = false := rfl
@[simp] theorem resetEvent_drop (s : State) :
    (s.resetEvent).drop = false := rfl
@[simp] theorem resetEvent_errcode (s : State) :
    (s.resetEvent).errcode = 0 := rfl
@[simp] theorem resetEvent_cmd (s : State) :
    (s.resetEvent).cmd = 0 := rfl
@[simp] theorem resetEvent_src (s : State) :
    (s.resetEvent).src = 0 := rfl
@[simp] theorem resetEvent_dst (s : State) :
    (s.resetEvent).dst = 0 := rfl
@[simp] theorem resetEvent_len (s : State) :
    (s.resetEvent).len = 0 := rfl
@[simp] theorem resetEvent_xlen (s : State) :
    (s.resetEvent).xlen = 0 := rfl
@[simp] theorem resetEvent_kaddr (s : State) :
    (s.resetEvent).kaddr = 0 := rfl
@[simp] theorem resetEvent_klen (s : State) :
    (s.resetEvent).klen = 0 := rfl
@[simp] theorem resetEvent_base (s : State) :
    (s.resetEvent).base = 0 := rfl
@[simp] theorem resetEvent_rounds (s : State) :
    (s.resetEvent).rounds = 0 := rfl
@[simp] theorem resetEvent_result (s : State) :
    (s.resetEvent).result = 0 := rfl
@[simp] theorem resetEvent_phase (s : State) :
    (s.resetEvent).phase = .idle := rfl
@[simp] theorem resetEvent_buf (s : State) :
    (s.resetEvent).buf = [] := rfl
@[simp] theorem resetEvent_cfg (s : State) :
    (s.resetEvent).cfg = s.cfg := rfl
@[simp] theorem resetEvent_resets (s : State) :
    (s.resetEvent).resets = s.resets + 1 := rfl
@[simp] theorem resetEvent_draws (s : State) :
    (s.resetEvent).draws = s.draws := rfl
@[simp] theorem resetEvent_programs (s : State) :
    (s.resetEvent).programs = s.programs := rfl
@[simp] theorem resetEvent_schedule (s : State) :
    (s.resetEvent).schedule = s.schedule := rfl
@[simp] theorem resetEvent_trace (s : State) :
    (s.resetEvent).trace = s.trace := rfl

/-! ### The write of an operand register: every field that is no operand register stays -/

@[simp] theorem setOperand_ie (s : State) (r : Reg) (v : Word) :
    (s.setOperand r v).ie = s.ie := by cases r <;> rfl
@[simp] theorem setOperand_busy (s : State) (r : Reg) (v : Word) :
    (s.setOperand r v).busy = s.busy := by cases r <;> rfl
@[simp] theorem setOperand_done (s : State) (r : Reg) (v : Word) :
    (s.setOperand r v).done = s.done := by cases r <;> rfl
@[simp] theorem setOperand_err (s : State) (r : Reg) (v : Word) :
    (s.setOperand r v).err = s.err := by cases r <;> rfl
@[simp] theorem setOperand_drop (s : State) (r : Reg) (v : Word) :
    (s.setOperand r v).drop = s.drop := by cases r <;> rfl
@[simp] theorem setOperand_errcode (s : State) (r : Reg) (v : Word) :
    (s.setOperand r v).errcode = s.errcode := by cases r <;> rfl
@[simp] theorem setOperand_cmd (s : State) (r : Reg) (v : Word) :
    (s.setOperand r v).cmd = s.cmd := by cases r <;> rfl
@[simp] theorem setOperand_src (s : State) (r : Reg) (v : Word) :
    (s.setOperand r v).src = if r = .src then v else s.src := by cases r <;> rfl
@[simp] theorem setOperand_dst (s : State) (r : Reg) (v : Word) :
    (s.setOperand r v).dst = if r = .dst then v else s.dst := by cases r <;> rfl
@[simp] theorem setOperand_len (s : State) (r : Reg) (v : Word) :
    (s.setOperand r v).len = if r = .len then v else s.len := by cases r <;> rfl
@[simp] theorem setOperand_xlen (s : State) (r : Reg) (v : Word) :
    (s.setOperand r v).xlen = if r = .xlen then v else s.xlen := by cases r <;> rfl
@[simp] theorem setOperand_kaddr (s : State) (r : Reg) (v : Word) :
    (s.setOperand r v).kaddr = if r = .kaddr then v else s.kaddr := by cases r <;> rfl
@[simp] theorem setOperand_klen (s : State) (r : Reg) (v : Word) :
    (s.setOperand r v).klen = if r = .klen then v else s.klen := by cases r <;> rfl
@[simp] theorem setOperand_base (s : State) (r : Reg) (v : Word) :
    (s.setOperand r v).base = if r = .base then v else s.base := by cases r <;> rfl
@[simp] theorem setOperand_rounds (s : State) (r : Reg) (v : Word) :
    (s.setOperand r v).rounds = if r = .rounds then v else s.rounds := by cases r <;> rfl
@[simp] theorem setOperand_result (s : State) (r : Reg) (v : Word) :
    (s.setOperand r v).result = s.result := by cases r <;> rfl
@[simp] theorem setOperand_phase (s : State) (r : Reg) (v : Word) :
    (s.setOperand r v).phase = s.phase := by cases r <;> rfl
@[simp] theorem setOperand_buf (s : State) (r : Reg) (v : Word) :
    (s.setOperand r v).buf = s.buf := by cases r <;> rfl
@[simp] theorem setOperand_cfg (s : State) (r : Reg) (v : Word) :
    (s.setOperand r v).cfg = s.cfg := by cases r <;> rfl
@[simp] theorem setOperand_resets (s : State) (r : Reg) (v : Word) :
    (s.setOperand r v).resets = s.resets := by cases r <;> rfl
@[simp] theorem setOperand_draws (s : State) (r : Reg) (v : Word) :
    (s.setOperand r v).draws = s.draws := by cases r <;> rfl
@[simp] theorem setOperand_programs (s : State) (r : Reg) (v : Word) :
    (s.setOperand r v).programs = s.programs := by cases r <;> rfl
@[simp] theorem setOperand_schedule (s : State) (r : Reg) (v : Word) :
    (s.setOperand r v).schedule = s.schedule := by cases r <;> rfl
@[simp] theorem setOperand_trace (s : State) (r : Reg) (v : Word) :
    (s.setOperand r v).trace = s.trace := by cases r <;> rfl

/-! ### The recorded writes of a command: every field but `buf` stays -/

@[simp] theorem applyWrites_ie (s : State) (ws : List MemWrite) :
    (s.applyWrites ws).ie = s.ie := by
  induction ws generalizing s with
  | nil => rfl
  | cons w ws ih => simpa [State.applyWrites] using ih (s.storeBytes w.addr w.bytes)
@[simp] theorem applyWrites_busy (s : State) (ws : List MemWrite) :
    (s.applyWrites ws).busy = s.busy := by
  induction ws generalizing s with
  | nil => rfl
  | cons w ws ih => simpa [State.applyWrites] using ih (s.storeBytes w.addr w.bytes)
@[simp] theorem applyWrites_done (s : State) (ws : List MemWrite) :
    (s.applyWrites ws).done = s.done := by
  induction ws generalizing s with
  | nil => rfl
  | cons w ws ih => simpa [State.applyWrites] using ih (s.storeBytes w.addr w.bytes)
@[simp] theorem applyWrites_err (s : State) (ws : List MemWrite) :
    (s.applyWrites ws).err = s.err := by
  induction ws generalizing s with
  | nil => rfl
  | cons w ws ih => simpa [State.applyWrites] using ih (s.storeBytes w.addr w.bytes)
@[simp] theorem applyWrites_drop (s : State) (ws : List MemWrite) :
    (s.applyWrites ws).drop = s.drop := by
  induction ws generalizing s with
  | nil => rfl
  | cons w ws ih => simpa [State.applyWrites] using ih (s.storeBytes w.addr w.bytes)
@[simp] theorem applyWrites_errcode (s : State) (ws : List MemWrite) :
    (s.applyWrites ws).errcode = s.errcode := by
  induction ws generalizing s with
  | nil => rfl
  | cons w ws ih => simpa [State.applyWrites] using ih (s.storeBytes w.addr w.bytes)
@[simp] theorem applyWrites_cmd (s : State) (ws : List MemWrite) :
    (s.applyWrites ws).cmd = s.cmd := by
  induction ws generalizing s with
  | nil => rfl
  | cons w ws ih => simpa [State.applyWrites] using ih (s.storeBytes w.addr w.bytes)
@[simp] theorem applyWrites_src (s : State) (ws : List MemWrite) :
    (s.applyWrites ws).src = s.src := by
  induction ws generalizing s with
  | nil => rfl
  | cons w ws ih => simpa [State.applyWrites] using ih (s.storeBytes w.addr w.bytes)
@[simp] theorem applyWrites_dst (s : State) (ws : List MemWrite) :
    (s.applyWrites ws).dst = s.dst := by
  induction ws generalizing s with
  | nil => rfl
  | cons w ws ih => simpa [State.applyWrites] using ih (s.storeBytes w.addr w.bytes)
@[simp] theorem applyWrites_len (s : State) (ws : List MemWrite) :
    (s.applyWrites ws).len = s.len := by
  induction ws generalizing s with
  | nil => rfl
  | cons w ws ih => simpa [State.applyWrites] using ih (s.storeBytes w.addr w.bytes)
@[simp] theorem applyWrites_xlen (s : State) (ws : List MemWrite) :
    (s.applyWrites ws).xlen = s.xlen := by
  induction ws generalizing s with
  | nil => rfl
  | cons w ws ih => simpa [State.applyWrites] using ih (s.storeBytes w.addr w.bytes)
@[simp] theorem applyWrites_kaddr (s : State) (ws : List MemWrite) :
    (s.applyWrites ws).kaddr = s.kaddr := by
  induction ws generalizing s with
  | nil => rfl
  | cons w ws ih => simpa [State.applyWrites] using ih (s.storeBytes w.addr w.bytes)
@[simp] theorem applyWrites_klen (s : State) (ws : List MemWrite) :
    (s.applyWrites ws).klen = s.klen := by
  induction ws generalizing s with
  | nil => rfl
  | cons w ws ih => simpa [State.applyWrites] using ih (s.storeBytes w.addr w.bytes)
@[simp] theorem applyWrites_base (s : State) (ws : List MemWrite) :
    (s.applyWrites ws).base = s.base := by
  induction ws generalizing s with
  | nil => rfl
  | cons w ws ih => simpa [State.applyWrites] using ih (s.storeBytes w.addr w.bytes)
@[simp] theorem applyWrites_rounds (s : State) (ws : List MemWrite) :
    (s.applyWrites ws).rounds = s.rounds := by
  induction ws generalizing s with
  | nil => rfl
  | cons w ws ih => simpa [State.applyWrites] using ih (s.storeBytes w.addr w.bytes)
@[simp] theorem applyWrites_result (s : State) (ws : List MemWrite) :
    (s.applyWrites ws).result = s.result := by
  induction ws generalizing s with
  | nil => rfl
  | cons w ws ih => simpa [State.applyWrites] using ih (s.storeBytes w.addr w.bytes)
@[simp] theorem applyWrites_phase (s : State) (ws : List MemWrite) :
    (s.applyWrites ws).phase = s.phase := by
  induction ws generalizing s with
  | nil => rfl
  | cons w ws ih => simpa [State.applyWrites] using ih (s.storeBytes w.addr w.bytes)
@[simp] theorem applyWrites_cfg (s : State) (ws : List MemWrite) :
    (s.applyWrites ws).cfg = s.cfg := by
  induction ws generalizing s with
  | nil => rfl
  | cons w ws ih => simpa [State.applyWrites] using ih (s.storeBytes w.addr w.bytes)
@[simp] theorem applyWrites_resets (s : State) (ws : List MemWrite) :
    (s.applyWrites ws).resets = s.resets := by
  induction ws generalizing s with
  | nil => rfl
  | cons w ws ih => simpa [State.applyWrites] using ih (s.storeBytes w.addr w.bytes)
@[simp] theorem applyWrites_draws (s : State) (ws : List MemWrite) :
    (s.applyWrites ws).draws = s.draws := by
  induction ws generalizing s with
  | nil => rfl
  | cons w ws ih => simpa [State.applyWrites] using ih (s.storeBytes w.addr w.bytes)
@[simp] theorem applyWrites_programs (s : State) (ws : List MemWrite) :
    (s.applyWrites ws).programs = s.programs := by
  induction ws generalizing s with
  | nil => rfl
  | cons w ws ih => simpa [State.applyWrites] using ih (s.storeBytes w.addr w.bytes)
@[simp] theorem applyWrites_schedule (s : State) (ws : List MemWrite) :
    (s.applyWrites ws).schedule = s.schedule := by
  induction ws generalizing s with
  | nil => rfl
  | cons w ws ih => simpa [State.applyWrites] using ih (s.storeBytes w.addr w.bytes)
@[simp] theorem applyWrites_trace (s : State) (ws : List MemWrite) :
    (s.applyWrites ws).trace = s.trace := by
  induction ws generalizing s with
  | nil => rfl
  | cons w ws ih => simpa [State.applyWrites] using ih (s.storeBytes w.addr w.bytes)

end Sys2Proof.Machine
end

