-- ==== Sys2Proof/Laws/Ops.lean ====
section
/-! SUPPORT. What each shared operation can do, said once: BUF, the checks, completion, and one host access. -/

namespace Sys2Proof.Machine

/-! ### BUF -/

/-- What a store does to every byte of BUF. -/
theorem bufByte_storeBytes (s : State) (a : Nat) (bs : List Byte) (x : Nat) :
    (s.storeBytes a bs).bufByte x = if a ≤ x ∧ x < a + bs.length then bs.getD (x - a) 0 else s.bufByte x := by
  unfold State.bufByte
  rw [storeBytes_buf, storeBytes_resets, lookup_writeBytes]
  split
  · rename_i h
    have hlt : x - a < bs.length := by omega
    simp [List.getD, List.getElem?_eq_getElem hlt]
  · rfl

/-- A byte of BUF depends on nothing but the store and the number of the reset. -/
theorem bufByte_congr {s t : State} (hb : t.buf = s.buf) (hr : t.resets = s.resets) (a : Nat) :
    t.bufByte a = s.bufByte a := by
  unfold State.bufByte
  rw [hb, hr]

@[simp] theorem length_memRead (s : State) (a n : Nat) : (s.memRead a n).length = n := by
  simp [State.memRead]

theorem memRead_getD (s : State) (a n i : Nat) (h : i < n) : (s.memRead a n).getD i 0 = s.bufByte (a + i) := by
  simp [State.memRead, h]

theorem memRead_congr {s t : State} (h : ∀ x, t.bufByte x = s.bufByte x) (a n : Nat) :
    t.memRead a n = s.memRead a n := by
  simp [State.memRead, h]

@[simp] theorem length_leBytes (v n : Nat) : (leBytes v n).length = n := by
  induction n generalizing v with
  | zero => rfl
  | succ n ih => simp [leBytes, ih]

@[simp] theorem length_digitsOf (B v n : Nat) : (digitsOf B v n).length = n := by simp [digitsOf]

@[simp] theorem length_bytesBe (v n : Nat) : (bytesBe v n).length = n := by simp [bytesBe]

@[simp] theorem length_digitBytes (d : List Nat) : (digitBytes d).length = 2 * d.length := by
  induction d with
  | nil => rfl
  | cons x d ih =>
    rw [digitBytes, List.flatMap_cons, List.length_append, ← digitBytes, ih, List.length_cons, le16]
    simp only [List.length_cons, List.length_nil]
    omega

@[simp] theorem length_xorc (l f : List Byte) : (xorc l f).length = l.length := by
  cases f <;> simp [xorc]

/-! ### The checks -/

@[simp] theorem failUnless_eq_none (ok : Bool) (c : ErrorCode) : failUnless ok c = none ↔ ok = true := by
  cases ok <;> simp [failUnless]

@[simp] theorem failUnless_eq_some (ok : Bool) (c e : ErrorCode) :
    failUnless ok c = some e ↔ ok = false ∧ c = e := by
  cases ok <;> simp [failUnless]

theorem checkBase_eq (s : State) :
    checkBase s = if 2 ≤ s.base.toNat ∧ s.base.toNat ≤ 65536 then none else some .badBase := by
  simp only [checkBase, failUnless, Bool.and_eq_true, decide_eq_true_eq]
  rfl

theorem checkRounds_eq (s : State) : checkRounds s = if s.rounds = 0 then some .badRounds else none := by
  by_cases h : s.rounds = 0 <;> simp [checkRounds, failUnless, h]

theorem checkKeyLen_eq (s : State) :
    checkKeyLen s = if 1 ≤ s.klen.toNat ∧ s.klen.toNat ≤ 64 then none else some .badKeyLen := by
  simp only [checkKeyLen, failUnless, Bool.and_eq_true, decide_eq_true_eq]
  rfl

theorem checkSrc_eq (region : State → Region) (s : State) :
    checkSrc region s =
      if (region s).addr + (region s).size ≤ s.cfg.bufBytes then none else some .srcRange := by
  simp only [checkSrc, failUnless, inBuf, decide_eq_true_eq]

theorem checkCountLen_eq (s : State) :
    checkCountLen s = if s.len.toNat ≤ s.cfg.bufBytes then none else some .srcRange := by
  simp [checkCountLen, failUnless]

theorem checkDst_eq (region : State → Region) (s : State) :
    checkDst region s =
      if (region s).addr + (region s).size ≤ s.cfg.bufBytes then none else some .dstRange := by
  simp only [checkDst, failUnless, inBuf, decide_eq_true_eq]

theorem checkKey_eq (s : State) :
    checkKey s = if s.kaddr.toNat + s.klen.toNat ≤ s.cfg.bufBytes then none else some .keyRange := by
  simp only [checkKey, failUnless, inBuf, decide_eq_true_eq]
  rfl

theorem checkDigits_eq (s : State) :
    checkDigits s =
      if ∀ j, j < s.xlen.toNat → s.memRead16 (s.src.toNat + 2 * j) < s.base.toNat then none
      else some .digitRange := by
  simp [checkDigits, failUnless, State.sourceDigits, State.readDigits]

theorem checkOverflow_eq (s : State) :
    checkOverflow s =
      if numBase s.base.toNat (s.readDigits s.src.toNat s.xlen.toNat) < 256 ^ s.len.toNat then none
      else some .overflow := by
  simp only [checkOverflow, failUnless, decide_eq_true_eq]
  rfl

/-! Each check passes exactly where its predicate of 40_control.md R126 holds. -/

theorem checkBase_eq_none (s : State) : checkBase s = none ↔ 2 ≤ s.base.toNat ∧ s.base.toNat ≤ 65536 := by
  rw [checkBase_eq]
  split <;> simp_all

theorem checkRounds_eq_none (s : State) : checkRounds s = none ↔ s.rounds ≠ 0 := by
  rw [checkRounds_eq]
  split <;> simp_all

theorem checkKeyLen_eq_none (s : State) : checkKeyLen s = none ↔ 1 ≤ s.klen.toNat ∧ s.klen.toNat ≤ 64 := by
  rw [checkKeyLen_eq]
  split <;> simp_all

theorem checkSrc_eq_none (region : State → Region) (s : State) :
    checkSrc region s = none ↔ (region s).addr + (region s).size ≤ s.cfg.bufBytes := by
  rw [checkSrc_eq]
  split <;> simp_all

theorem checkCountLen_eq_none (s : State) : checkCountLen s = none ↔ s.len.toNat ≤ s.cfg.bufBytes := by
  rw [checkCountLen_eq]
  split <;> simp_all

theorem checkDst_eq_none (region : State → Region) (s : State) :
    checkDst region s = none ↔ (region s).addr + (region s).size ≤ s.cfg.bufBytes := by
  rw [checkDst_eq]
  split <;> simp_all

theorem checkKey_eq_none (s : State) :
    checkKey s = none ↔ s.kaddr.toNat + s.klen.toNat ≤ s.cfg.bufBytes := by
  rw [checkKey_eq]
  split <;> simp_all

theorem checkDigits_eq_none (s : State) :
    checkDigits s = none ↔ ∀ j, j < s.xlen.toNat → s.memRead16 (s.src.toNat + 2 * j) < s.base.toNat := by
  rw [checkDigits_eq]
  split <;> simp_all

theorem checkOverflow_eq_none (s : State) :
    checkOverflow s = none ↔
      numBase s.base.toNat (s.readDigits s.src.toNat s.xlen.toNat) < 256 ^ s.len.toNat := by
  rw [checkOverflow_eq]
  split <;> simp_all

@[simp] theorem firstError_nil (s : State) : firstError [] s = none := rfl

theorem firstError_cons (c : Check) (cs : List Check) (s : State) :
    firstError (c :: cs) s = (c s).or (firstError cs s) := by
  simp only [firstError]
  cases c s <;> rfl

/-- Every check passes exactly where there is no first error. -/
theorem firstError_eq_none (cs : List Check) (s : State) : firstError cs s = none ↔ ∀ c ∈ cs, c s = none := by
  induction cs with
  | nil => simp
  | cons c cs ih => simp [firstError_cons, ih]

/-- A command either raises the first error of its checks or follows its rule. -/
theorem runChecked_cases (cs : List Check) (rule : State → RunOutcome) (s : State) :
    (∃ e, firstError cs s = some e ∧ runChecked cs rule s = .err e) ∨
    (firstError cs s = none ∧ runChecked cs rule s = rule s) := by
  unfold runChecked
  cases h : firstError cs s with
  | none => exact .inr ⟨rfl, rfl⟩
  | some e => exact .inl ⟨e, rfl, rfl⟩

theorem runChecked_of_pass {cs : List Check} {s : State} (rule : State → RunOutcome)
    (h : firstError cs s = none) : runChecked cs rule s = rule s := by
  unfold runChecked
  rw [h]

theorem runChecked_of_error {cs : List Check} {s : State} {e : ErrorCode} (rule : State → RunOutcome)
    (h : firstError cs s = some e) : runChecked cs rule s = .err e := by
  unfold runChecked
  rw [h]

/-! ### Completion -/

@[simp] theorem complete_err (s : State) (c : ErrorCode) : s.complete (.err c) = s.finish c.code := rfl

@[simp] theorem complete_ok (s : State) (ws : List MemWrite) (res : Option Word) :
    s.complete (.ok ws res) = ((s.applyWrites ws).setResult res).finish 0x00 := rfl

@[simp] theorem applyWrites_nil (s : State) : s.applyWrites [] = s := rfl

@[simp] theorem applyWrites_cons (s : State) (w : MemWrite) (ws : List MemWrite) :
    s.applyWrites (w :: ws) = (s.storeBytes w.addr w.bytes).applyWrites ws := rfl

theorem code_ne_zero (c : ErrorCode) : c.code ≠ 0x00 := by cases c <;> decide

theorem code_le_nine (c : ErrorCode) : c.code.toNat ≤ 9 := by cases c <;> decide

/-- What a completion leaves as it was, whatever the outcome: CMD, the operand registers, CTRL, DROP, the parameters, the
free-value counters and the surroundings (40_control.md R124). -/
theorem complete_frame (s : State) (r : RunOutcome) :
    (s.complete r).cmd = s.cmd ∧ (s.complete r).src = s.src ∧ (s.complete r).dst = s.dst ∧
    (s.complete r).len = s.len ∧ (s.complete r).xlen = s.xlen ∧ (s.complete r).kaddr = s.kaddr ∧
    (s.complete r).klen = s.klen ∧ (s.complete r).base = s.base ∧ (s.complete r).rounds = s.rounds ∧
    (s.complete r).ie = s.ie ∧ (s.complete r).drop = s.drop ∧ (s.complete r).cfg = s.cfg ∧
    (s.complete r).resets = s.resets ∧ (s.complete r).draws = s.draws ∧ (s.complete r).programs = s.programs ∧
    (s.complete r).schedule = s.schedule ∧ (s.complete r).trace = s.trace := by
  cases r <;> simp

/-- What a completion sets, whatever the outcome: Idle, BUSY = 0, DONE = 1 (40_control.md R124). -/
theorem complete_flags (s : State) (r : RunOutcome) :
    (s.complete r).busy = false ∧ (s.complete r).phase = .idle ∧ (s.complete r).done = true ∧
    (s.complete r).err = ((s.complete r).errcode != 0x00) := by
  cases r <;> simp

/-! ### The engine -/

/-- The outcome of a command's run: its checks, then its rule (40_control.md R126). -/
def runOf : Instr → State → RunOutcome
  | .nop, _ => .ok [] none
  | .crc32, s => runChecked crc32Checks crc32Rule s
  | .feistelFwd, s => runChecked feistelChecks feistelFwdRule s
  | .feistelInv, s => runChecked feistelChecks feistelInvRule s
  | .prf, s => runChecked keyedChecks prfRule s
  | .radixB2d, s => runChecked radixB2dChecks radixB2dRule s
  | .radixD2b, s => runChecked radixD2bChecks radixD2bRule s
  | .radixDcount, s => runChecked radixDcountChecks radixDcountRule s

/-- The meaning of every command is one completion. -/
theorem exec_eq_complete (i : Instr) (s : State) : exec i s = .next (s.complete (runOf i s)) := by
  cases i <;> rfl

/-- The engine's turn: nothing while Idle, else one completion. -/
theorem engineTurn_cases (s : State) :
    (s.phase = .idle ∧ engineTurn s = .next s) ∨
    (s.phase = .busy ∧ ∃ i, decode s.cmd = .ok i ∧ engineTurn s = .next (s.complete (runOf i s))) ∨
    (s.phase = .busy ∧ ∃ e, decode s.cmd = .error e ∧ engineTurn s = .next (s.finish 0x01)) := by
  unfold engineTurn State.fetch
  cases hp : s.phase with
  | idle => exact .inl ⟨rfl, rfl⟩
  | busy =>
    cases hd : decode s.cmd with
    | ok i => exact .inr (.inl ⟨rfl, i, rfl, exec_eq_complete i s⟩)
    | error e => exact .inr (.inr ⟨rfl, e, rfl, rfl⟩)

/-! ### One host access -/

/-- A register write does one of five things. -/
theorem writeReg_cases (s : State) (r : Reg) (v : Word) :
    s.writeReg r v = s ∨ s.writeReg r v = s.writeCtrl v ∨ s.writeReg r v = s.writeStatus v ∨
    (s.busy = true ∧ s.writeReg r v = s.setDrop) ∨
    (s.busy = false ∧ (s.writeReg r v = s.accept v ∨ s.writeReg r v = s.setOperand r v)) := by
  cases hb : s.busy <;> cases r <;> simp [State.writeReg, hb]

/-- `BUF` targets are aligned and inside BUF. -/
theorem route_buf_inside {c : Config} {off w a : Nat} (h : route c off w = .ok (.buf a)) :
    a % w = 0 ∧ a + w ≤ c.bufBytes := by
  unfold route at h
  split at h
  · split at h
    · split at h <;> simp at h
    · simp at h
  · split at h
    · simp at h
    · split at h
      · simp at h
      · split at h
        · rename_i hc
          simp only [Except.ok.injEq, Target.buf.injEq] at h
          subst h
          exact hc
        · simp at h

/-- What one host access can do to the state. -/
theorem hostAccess_cases (s : State) (off : Nat) (op : BusOp) :
    (s.hostAccess off op).1 = s ∨
    (∃ r v, (s.hostAccess off op).1 = s.writeReg r v) ∨
    (s.busy = true ∧ (s.hostAccess off op).1 = { s with draws := s.draws + op.width }) ∨
    (s.busy = true ∧ (s.hostAccess off op).1 = s.setDrop) ∨
    (s.busy = false ∧ ∃ a bs, a + bs.length ≤ s.cfg.bufBytes ∧ (s.hostAccess off op).1 = s.storeBytes a bs) := by
  unfold State.hostAccess
  cases hr : route s.cfg off op.width with
  | error e => exact .inl rfl
  | ok tgt =>
    cases tgt with
    | reg r =>
      cases hv : op.value? with
      | none => exact .inl rfl
      | some v => exact .inr (.inl ⟨r, v, rfl⟩)
    | buf a =>
      cases hv : op.value? with
      | none =>
        cases hb : s.busy with
        | false => exact .inl (by simp [State.readBuf, hb])
        | true => exact .inr (.inr (.inl ⟨rfl, by simp [State.readBuf, hb]⟩))
      | some v =>
        cases hb : s.busy with
        | false =>
          refine .inr (.inr (.inr (.inr ⟨rfl, a, leBytes v.toNat op.width, ?_, by simp [State.writeBuf, hb]⟩)))
          simpa using (route_buf_inside hr).2
        | true => exact .inr (.inr (.inr (.inl ⟨rfl, by simp [State.writeBuf, hb]⟩)))

end Sys2Proof.Machine
end

