-- ==== Sys2Proof/Laws/PerInstr.lean ====
section
/-! SUPPORT. Facts stated once for every command: the fields of its word (30_encoding.md R90). -/

namespace Sys2Proof.Laws

/-- The command's word has RSV = 0, and its opcode is UNIT·16 + FN (30_encoding.md R90). -/
def WordFields.Statement (i : Instr) : Prop :=
  i.wellFormed = true ∧ rsvField (encode i) = 0 ∧ (opcField (encode i)).toNat = i.unit.toNat * 16 + i.fn.toNat

theorem WordFields.nop : WordFields.Statement .nop := by unfold WordFields.Statement; decide
theorem WordFields.crc32 : WordFields.Statement .crc32 := by unfold WordFields.Statement; decide
theorem WordFields.feistelFwd : WordFields.Statement .feistelFwd := by unfold WordFields.Statement; decide
theorem WordFields.feistelInv : WordFields.Statement .feistelInv := by unfold WordFields.Statement; decide
theorem WordFields.prf : WordFields.Statement .prf := by unfold WordFields.Statement; decide
theorem WordFields.radixB2d : WordFields.Statement .radixB2d := by unfold WordFields.Statement; decide
theorem WordFields.radixD2b : WordFields.Statement .radixD2b := by unfold WordFields.Statement; decide
theorem WordFields.radixDcount : WordFields.Statement .radixDcount := by unfold WordFields.Statement; decide

end Sys2Proof.Laws
end

