-- ==== Sys2Proof/Laws/Step.lean ====
section
/-! SUPPORT. What one step can do, said once. -/

namespace Sys2Proof.Machine

/-- What serving one access does: nothing for an address outside the aperture, else one access and its record. -/
theorem serve_cases (s : State) (h : Nat) (a : Access) :
    (s.serve h a).1 = s ∨
    ∃ off rep, (s.serve h a).1 = { (s.hostAccess off a.op).1 with trace := ⟨h, a, rep⟩ :: s.trace } := by
  unfold State.serve
  split
  · exact .inl rfl
  · rename_i off _
    exact .inr ⟨off, (s.hostAccess off a.op).2, rfl⟩

/-- An address outside the aperture is no event of the block. -/
theorem serve_outside {s : State} {a : Access} (h : Nat) (ho : s.cfg.offset? a.addr = none) :
    s.serve h a = (s, none) := by
  unfold State.serve
  rw [ho]

/-- An address inside the aperture is one access and its record. -/
theorem serve_inside {s : State} {a : Access} {off : Nat} (h : Nat) (ho : s.cfg.offset? a.addr = some off) :
    s.serve h a =
      ({ (s.hostAccess off a.op).1 with trace := ⟨h, a, (s.hostAccess off a.op).2⟩ :: s.trace },
        some (s.hostAccess off a.op).2) := by
  unfold State.serve
  rw [ho]

/-- What performing one item does: nothing, or it takes the item off the host's program (all of the program after a
BusError), with at most one access before that. -/
theorem performItem_cases (s : State) (h k : Nat) (p : List HostItem) (item : HostItem) :
    s.performItem h k p item = s ∨
    s.performItem h k p item = s.setProgram h (p.eraseIdx k) ∨
    (∃ a, s.performItem h k p item = (s.serve h a).1) ∨
    (∃ a q, (q = [] ∨ q = p.eraseIdx k) ∧ s.performItem h k p item = (s.serve h a).1.setProgram h q) := by
  cases item with
  | access a =>
    simp only [State.performItem]
    split
    · exact .inr (.inr (.inr ⟨a, _, .inl rfl, rfl⟩))
    · exact .inr (.inr (.inr ⟨a, _, .inr rfl, rfl⟩))
  | wait =>
    simp only [State.performItem]
    split
    · exact .inr (.inr (.inl ⟨_, rfl⟩))
    · exact .inr (.inr (.inr ⟨_, _, .inr rfl, rfl⟩))
  | waitIrq =>
    simp only [State.performItem]
    split
    · exact .inr (.inl rfl)
    · exact .inl rfl
  | barrier => exact .inr (.inl rfl)

/-- What one host's turn does: nothing, or it performs one item of its program that may be next. -/
theorem hostTurn_cases (s : State) (h k : Nat) :
    s.hostTurn h k = s ∨
    ∃ p item, s.programs[h]? = some p ∧ p[k]? = some item ∧ deliverable s.cfg.hostOrder p k = true ∧
      s.hostTurn h k = s.performItem h k p item := by
  unfold State.hostTurn
  split
  · exact .inl rfl
  · rename_i p hp
    split
    · exact .inl rfl
    · rename_i item hi
      split
      · rename_i hd
        exact .inr ⟨p, item, hp, hi, hd, rfl⟩
      · exact .inl rfl

/-- What one step can do: some host's turn, the engine's turn, a reset, or nothing. Here `s₀` is the state with the turn
taken off the schedule. -/
theorem step_cases {s t : State} (hstep : step s = .next t) :
    ∃ s₀ : State, s₀ = { s with schedule := s.schedule.tail } ∧
      ((∃ h k, t = s₀.hostTurn h k) ∨ engineTurn s₀ = .next t ∨ t = s₀.resetEvent ∨ t = s₀) := by
  refine ⟨_, rfl, ?_⟩
  unfold step at hstep
  split at hstep
  · rename_i turn rest hs
    rw [hs]
    cases turn with
    | host h k =>
      simp only [takeTurn, Host.Outcome.next.injEq] at hstep
      exact .inl ⟨h, k, hstep.symm⟩
    | engine => exact .inr (.inl hstep)
    | reset =>
      simp only [takeTurn, Host.Outcome.next.injEq] at hstep
      exact .inr (.inr (.inl hstep.symm))
  · rename_i hs
    have hself : ({ s with schedule := s.schedule.tail } : State) = s := by
      cases s
      simp only at hs
      subst hs
      rfl
    rw [hself]
    unfold ownTurn at hstep
    split at hstep
    · exact .inr (.inl hstep)
    · split at hstep
      · rename_i h _
        simp only [Host.Outcome.next.injEq] at hstep
        exact .inl ⟨h, 0, hstep.symm⟩
      · split at hstep
        · cases hstep
        · simp only [Host.Outcome.next.injEq] at hstep
          exact .inr (.inr (.inr hstep.symm))

/-- A host access leaves the parameters, the programs, the schedule and the record. -/
theorem hostAccess_frame (s : State) (off : Nat) (op : BusOp) :
    (s.hostAccess off op).1.cfg = s.cfg ∧ (s.hostAccess off op).1.programs = s.programs ∧
    (s.hostAccess off op).1.schedule = s.schedule ∧ (s.hostAccess off op).1.trace = s.trace := by
  rcases hostAccess_cases s off op with h | ⟨r, v, h⟩ | ⟨_, h⟩ | ⟨_, h⟩ | ⟨_, a, bs, _, h⟩ <;> rw [h]
  · exact ⟨rfl, rfl, rfl, rfl⟩
  · rcases writeReg_cases s r v with h | h | h | ⟨_, h⟩ | ⟨_, h | h⟩ <;> rw [h] <;> simp
  all_goals simp

/-- A relation between states that is reflexive and transitive, and holds across a change of the surroundings, a host
access, the engine's turn and a reset, holds across every step. -/
theorem step_relates (P : State → State → Prop) (hrefl : ∀ s, P s s) (htrans : ∀ a b c, P a b → P b c → P a c)
    (haround : ∀ (s : State) ps tr sch, ps.length = s.programs.length →
      P s { s with programs := ps, trace := tr, schedule := sch })
    (haccess : ∀ s off op, P s (State.hostAccess s off op).1)
    (hengine : ∀ s t, engineTurn s = .next t → P s t) (hreset : ∀ s : State, P s s.resetEvent)
    {s t : State} (hstep : step s = .next t) : P s t := by
  obtain ⟨s₀, hs₀, h⟩ := step_cases hstep
  have h₀ : P s s₀ := by
    rw [hs₀]
    exact haround s s.programs s.trace _ rfl
  have hserve : ∀ h a, P s₀ (s₀.serve h a).1 ∧ (s₀.serve h a).1.programs.length = s₀.programs.length := by
    intro h a
    rcases serve_cases s₀ h a with h1 | ⟨off, rep, h1⟩ <;> rw [h1]
    · exact ⟨hrefl _, rfl⟩
    · exact ⟨htrans _ _ _ (haccess s₀ off a.op) (haround _ _ _ _ rfl),
        by simp [(hostAccess_frame s₀ off a.op).2.1]⟩
  refine htrans _ _ _ h₀ ?_
  rcases h with ⟨h, k, h1⟩ | h1 | h1 | h1
  · rw [h1]
    rcases hostTurn_cases s₀ h k with h2 | ⟨p, item, _, _, _, h2⟩ <;> rw [h2]
    · exact hrefl _
    · rcases performItem_cases s₀ h k p item with h3 | h3 | ⟨a, h3⟩ | ⟨a, q, _, h3⟩ <;> rw [h3]
      · exact hrefl _
      · exact haround _ _ _ _ (by simp)
      · exact (hserve h a).1
      · exact htrans _ _ _ (hserve h a).1 (haround _ _ _ _ (by simp))
  · exact hengine _ _ h1
  · rw [h1]
    exact hreset _
  · rw [h1]
    exact hrefl _

end Sys2Proof.Machine
end

