-- ==== Sys2Proof/Tests/Slice0.lean ====
section
/-! SUPPORT. Tests against spec/95_test_vectors.md and the encoding tables, the smoke test of WellFormed, and for each
statement with hypotheses a concrete state that meets them. Expected values are the spec's. -/

namespace Sys2Proof.Machine.Tests

/-! ### Helpers -/

/-- The bytes of `v`, big-endian, `n` of them: a hex string of the spec. -/
def hex (n v : Nat) : List Byte := bytesBe v n

/-- The key "testkey" of 95_test_vectors.md. -/
def testkey : List Byte := hex 7 0x746573746b6579

/-- The reset state with `m` at BUF 0 and the key at BUF 0x100. -/
def loaded (m : List Byte) : State := (State.reset.storeBytes 0 m).storeBytes 0x100 testkey

/-- Region [0, n) to BUF 0x10 with the 7-byte key and `r` rounds. -/
def keyed (m : List Byte) (r : Word) : State :=
  { loaded m with src := 0, dst := 0x10, len := BitVec.ofNat 32 m.length, kaddr := 0x100, klen := 7, rounds := r }

/-- Region [0, n) to BUF 0x10 in base `B`. -/
def radix (m : List Byte) (B : Word) : State :=
  { loaded m with src := 0, dst := 0x10, len := BitVec.ofNat 32 m.length, base := B }

/-- The digits 6, 5, 5, 3, `d` at BUF 0 in base 10, to two bytes at BUF 0x10. -/
def digits (d : Nat) : State :=
  { loaded (digitBytes [6, 5, 5, 3, d]) with src := 0, dst := 0x10, len := 2, xlen := 5, base := 10 }

/-- The state after the command word `w` runs in `s`. -/
def ran (s : State) (w : Nat) : Option State := nextOf (step (s.withFetchWord 32 w))

/-- STATUS, RESULT and `n` bytes of BUF from 0x10 on, after the word `w` ran in `s`. -/
def shown (s : State) (w n : Nat) : Option (Word × Word × List Byte) :=
  (ran s w).map fun t => (t.statusWord, t.result, t.memRead 0x10 n)

/-- The reset state with one host and its program. -/
def hosted (p : List HostItem) : State := { State.reset with programs := [p] }

/-! ### WellFormed: each check refuses an ill-formed term -/

theorem test_config_wellformed : Config.standard.wf = true ∧ (Config.mk 1024 false 0).wf = true ∧
    (Config.mk 32768 true 0x10000).wf = true := by decide

theorem test_config_not_multiple_of_four : (Config.mk 1026 true 0).wf = false := by decide

theorem test_config_too_small : (Config.mk 1020 true 0).wf = false := by decide

theorem test_config_too_large : (Config.mk 32772 true 0).wf = false := by decide

theorem test_instr_wellformed : Instr.radixD2b.wellFormed = true := by decide

theorem test_access_below_aperture : Access.wellFormed (Config.mk 1024 true 0x10000) ⟨0xFFFF, .rd8⟩ = false := by decide

theorem test_access_above_aperture : Access.wellFormed (Config.mk 1024 true 0x10000) ⟨0x20000, .rd8⟩ = false := by
  decide

theorem test_access_wellformed : Access.wellFormed (Config.mk 1024 true 0x10000) ⟨0x1FFFF, .rd8⟩ = true := by decide

theorem test_turn_out_of_order : Turn.wellFormed Config.standard (.host 0 1) = false := by decide

theorem test_turn_wellformed : Turn.wellFormed (Config.mk 1024 false 0) (.host 0 1) = true := by decide

/-! ### Decode: RSV (24 bits), UNIT (4 bits), FN (4 bits), from 30_encoding.md R90 and R91 -/

theorem test_decode_nop : decode 0b000000000000000000000000_0000_0000 = .ok .nop := by decide

theorem test_decode_crc32 : decode 0b000000000000000000000000_0001_0000 = .ok .crc32 := by decide

theorem test_decode_feistelFwd : decode 0b000000000000000000000000_0010_0000 = .ok .feistelFwd := by decide

theorem test_decode_feistelInv : decode 0b000000000000000000000000_0010_0001 = .ok .feistelInv := by decide

theorem test_decode_prf : decode 0b000000000000000000000000_0010_0010 = .ok .prf := by decide

theorem test_decode_radixB2d : decode 0b000000000000000000000000_0011_0000 = .ok .radixB2d := by decide

theorem test_decode_radixD2b : decode 0b000000000000000000000000_0011_0001 = .ok .radixD2b := by decide

theorem test_decode_radixDcount : decode 0b000000000000000000000000_0011_0010 = .ok .radixDcount := by decide

/-- RSV bit 0 and bit 23, a free FN of each unit, and a free UNIT. -/
theorem test_decode_illegal : decode 0x00000110 = .error .reservedBits ∧ decode 0x80000000 = .error .reservedBits ∧
    decode 0x01 = .error .unassignedOpcode ∧ decode 0x11 = .error .unassignedOpcode ∧
    decode 0x23 = .error .unassignedOpcode ∧ decode 0x33 = .error .unassignedOpcode ∧
    decode 0x40 = .error .unassignedOpcode := by decide

/-! ### One command each, from 95_test_vectors.md -/

/-- §2.6, R128: NOP completes with STATUS 0x002 and leaves RESULT. -/
theorem test_nop : (ran { State.reset with result := 5 } 0x00).map (fun t => (t.statusWord, t.result, t.cmd)) =
    some (0x002, 5, 0x00) := by decide

/-- §2.1: the check value of "123456789". -/
theorem test_crc32 : (ran { loaded (hex 9 0x313233343536373839) with len := 9 } 0x10).map
    (fun t => (t.statusWord, t.result)) = some (0x002, 0xCBF43926) := by decide +kernel

/-- §1.6: one byte past the end of BUF is SRC_RANGE, even with LEN = 0. -/
theorem test_crc32_range : (ran { State.reset with src := 4096, len := 0 } 0x10).map (fun t => t.statusWord) =
      some 0x002 ∧
    (ran { State.reset with src := 4097, len := 0 } 0x10).map (fun t => (t.statusWord, t.result)) =
      some (0x506, 0) := by decide +kernel

/-- §1.9: "Hello" with two rounds. -/
theorem test_feistelFwd : shown (keyed (hex 5 0x48656c6c6f) 2) 0x20 5 =
    some (0x002, 5, hex 5 0x0616e77fe4) := by decide +kernel

/-- 40_control.md R126: ROUNDS = 0 is reported before a bad KLEN. -/
theorem test_feistelFwd_rounds : (ran { keyed [] 0 with klen := 65 } 0x20).map (fun t => t.statusWord) =
    some 0x306 := by decide

/-- §1.9 and 43_prp.md R201: the output of one round goes back to "Hello", with the split of an odd number of rounds. -/
theorem test_feistelInv : shown (keyed (hex 5 0x6c6c6f0616) 1) 0x21 5 =
    some (0x002, 5, hex 5 0x48656c6c6f) := by decide +kernel

/-- 40_control.md R126: a key that runs past the end of BUF is KEY_RANGE. -/
theorem test_feistelInv_keyRange : (ran { keyed [] 1 with kaddr := 4090 } 0x21).map (fun t => t.statusWord) =
    some 0x706 := by decide

/-- 43_prp.md R191: K[t] is the first 32 bits of the fractional part of the cube root of the t-th prime. -/
theorem test_shaK : shaK.length = 64 ∧ ∀ p ≤ 311, p.Prime → ∃ q ≤ 6,
    (q * 2 ^ 32 + (shaK.getD (p.primesBelow.card) 0).toNat) ^ 3 ≤ p * 2 ^ 96 ∧
    p * 2 ^ 96 < (q * 2 ^ 32 + (shaK.getD (p.primesBelow.card) 0).toNat + 1) ^ 3 := by decide +kernel

/-- 43_prp.md R191: H0[i] is the first 32 bits of the fractional part of the square root of the i-th prime. -/
theorem test_shaH0 : ∀ pw ∈ [(2, shaH0.a), (3, shaH0.b), (5, shaH0.c), (7, shaH0.d), (11, shaH0.e), (13, shaH0.f),
    (17, shaH0.g), (19, shaH0.h)], ∃ q ≤ 4, (q * 2 ^ 32 + pw.2.toNat) ^ 2 ≤ pw.1 * 2 ^ 64 ∧
    pw.1 * 2 ^ 64 < (q * 2 ^ 32 + pw.2.toNat + 1) ^ 2 := by decide +kernel

/-- §2.2: PRF of "abc". -/
theorem test_prf : shown (keyed (hex 3 0x616263) 0) 0x22 3 = some (0x002, 3, hex 3 0xef3e3f) := by decide +kernel

/-- 40_control.md R126: KLEN = 0 is BAD_KEY_LEN; ROUNDS = 0 is allowed. -/
theorem test_prf_keyLen : (ran { keyed [] 0 with klen := 0 } 0x22).map (fun t => t.statusWord) =
    some 0x406 := by decide

/-- §1.10: 256 in base 10, as LE16 digits. -/
theorem test_radixB2d : shown (radix [1, 0] 10) 0x30 10 =
    some (0x002, 5, [0, 0, 0, 0, 2, 0, 5, 0, 6, 0]) := by decide +kernel

/-- Program P4: BASE = 0 is BAD_BASE, and RESULT stays. -/
theorem test_radixB2d_base : (ran { State.reset with ie := true } 0x30).map (fun t => (t.statusWord, t.result, t.irq)) =
    some (0x206, 0, true) := by decide

/-- §1.5: 65535 back to two bytes. -/
theorem test_radixD2b : shown (digits 5) 0x31 2 = some (0x002, 2, [0xff, 0xff]) := by decide +kernel

/-- §1.5 and 40_control.md R126: 65536 does not fit, and a digit 10 is out of range first. -/
theorem test_radixD2b_errors : (ran (digits 6) 0x31).map (fun t => t.statusWord) = some 0x906 ∧
    (ran (digits 10) 0x31).map (fun t => t.statusWord) = some 0x806 := by decide +kernel

/-- §2.5: D(29, 256) and D(16, 10). -/
theorem test_radixDcount : (ran { State.reset with len := 29, base := 256 } 0x32).map (fun t => t.result) = some 29 ∧
    (ran { State.reset with len := 16, base := 10 } 0x32).map (fun t => t.result) = some 39 := by decide +kernel

/-- 40_control.md R126: a region longer than BUF is SRC_RANGE. -/
theorem test_radixDcount_len : (ran { State.reset with len := 4097, base := 2 } 0x32).map (fun t => t.statusWord) =
    some 0x506 := by decide

/-- Program P4: the word 0x110 completes with ILLEGAL_CMD and stays in CMD. -/
theorem test_illegal : (ran State.reset 0x110).map (fun t => (t.statusWord, t.cmd)) = some (0x106, 0x110) := by decide

/-! ### The bus -/

/-- 10_state.md R22, R23: ID and PARAM. -/
theorem test_id_param : (State.reset.hostAccess 0 .rd32).2 = .data 0x43504301 ∧
    (State.reset.hostAccess 4 .rd32).2 = .data 0x00401000 := by decide

/-- Program P4: a 16-bit read of STATUS is a BusError. -/
theorem test_busError : (State.reset.hostAccess 0x0C .rd16).2 = .busError .registerAccess := by decide

/-- Program P2: four bytes of BUF read as LE32. -/
theorem test_bufRead : ((loaded (hex 5 0x48656c6c6f)).hostAccess 0x8000 .rd32).2 = .data 0x6C6C6548 := by decide

/-- Program P4, run (b): a LEN write while busy is dropped, and STATUS then shows DONE and DROP. -/
theorem test_dropped : (nextOf (step ((State.reset.withFetchWord 32 0x10).hostAccess 0x1C (.wr32 9)).1)).map
    (fun t => (t.statusWord, t.len)) = some (0x00A, 0) := by decide

/-- 30_encoding.md R98: the expansion of `crc32 0, 9`. -/
theorem test_asmCrc32 : asmCrc32 Config.standard 0 9 =
    [.access ⟨0x14, .wr32 0⟩, .access ⟨0x1C, .wr32 9⟩, .access ⟨0x10, .wr32 0x10⟩, .wait] := by decide

/-! ### Witnesses: for each statement with hypotheses, states that meet them -/

theorem witness_DecodeAndEncodeAgree : Instr.feistelInv.wellFormed = true := by decide

theorem witness_IllegalWordsCompleteWithIllegalCmd :
    (State.reset.accept 0x110).phase = .busy ∧ (State.reset.accept 0x110).cmd.extractLsb' 8 24 ≠ 0 ∧
    4 ≤ ((State.reset.accept 0x40).cmd.extractLsb' 4 4).toNat ∧
    (((State.reset.accept 0x11).cmd.extractLsb' 4 4).toNat ≤ 1 ∧
      1 ≤ ((State.reset.accept 0x11).cmd.extractLsb' 0 4).toNat) ∧
    (2 ≤ ((State.reset.accept 0x23).cmd.extractLsb' 4 4).toNat ∧
      3 ≤ ((State.reset.accept 0x23).cmd.extractLsb' 0 4).toNat) := by decide

theorem witness_StepRunsTheDecodedCommand :
    (State.reset.accept 0x10).phase = .busy ∧ decode (State.reset.accept 0x10).cmd = .ok .crc32 ∧
    (State.reset.accept 0x10).schedule = [] ∧
    ({ State.reset.accept 0x10 with schedule := [.engine, .reset] } : State).schedule = .engine :: [.reset] := by
  decide

theorem witness_PlacedWordRunsNext : decodeTableWord 32 0x22 = some .prf := by decide

theorem witness_AcceptIssuesTheCommand : State.reset.busy = false := by decide

theorem witness_WritesWhileBusyAreDropped :
    (State.reset.accept 0x10).busy = true ∧ Reg.rounds.isOperand = true ∧
    (BusOp.wr32 7).value? ≠ none ∧ 4092 % (BusOp.wr32 7).width = 0 ∧
    4092 + (BusOp.wr32 7).width ≤ (State.reset.accept 0x10).cfg.bufBytes ∧
    ((State.reset.accept 0x10).hostAccess 0x38 (.wr32 7)).2 = .busError .unmapped := by decide

theorem witness_InputsStayFixedWhileBusy :
    let s : State := { State.reset.accept 0x10 with
      programs := [[asmWriteReg Config.standard .len 9]], schedule := [.host 0 0] }
    (∀ j, j ≤ 1 → ∃ u, runSteps j s = some u ∧ u.busy = true) ∧ ∃ t, runSteps 1 s = some t ∧ t.drop = true := by
  refine ⟨fun j hj => ?_, _, rfl, by decide⟩
  match j, hj with
  | 0, _ => exact ⟨_, rfl, by decide⟩
  | 1, _ => exact ⟨_, rfl, by decide⟩

theorem witness_CompletionSetsStatusAndKeepsOperands : (State.reset.accept 0x00).phase = .busy := by decide

theorem witness_FailedCommandReportsAndWritesNothing :
    ∃ t, engineTurn (State.reset.accept 0x30) = .next t ∧ t.errcode ≠ 0x00 := ⟨_, rfl, by decide⟩

theorem witness_FirstFailedCheckIsReported : (State.reset.accept 0x31).phase = .busy := by decide

theorem witness_BusyBlockCompletes :
    let s : State := { State.reset.accept 0x10 with schedule := [.host 0 0, .engine] }
    s.phase = .busy ∧ s.busy = true ∧ Turn.reset ∉ s.schedule := by decide

/-- The last byte of BUF, and the empty region at its end. -/
theorem witness_Crc32PutsTheChecksumInResult :
    let s : State := { State.reset with src := 4095, len := 1 }
    let u : State := { State.reset with src := 4096, len := 0 }
    s.src.toNat + s.len.toNat ≤ s.cfg.bufBytes ∧ u.src.toNat + u.len.toNat ≤ u.cfg.bufBytes := by decide

/-- Regions and a longest key that end exactly at the end of BUF, and the largest number of rounds. -/
theorem witness_FeistelFwdStoresThePermutedRegion :
    let s : State := { State.reset with src := 0, len := 4096, dst := 0, kaddr := 4032, klen := 64, rounds := 0xFFFFFFFF }
    s.rounds ≠ 0 ∧ 1 ≤ s.klen.toNat ∧ s.klen.toNat ≤ 64 ∧ s.src.toNat + s.len.toNat ≤ s.cfg.bufBytes ∧
    s.dst.toNat + s.len.toNat ≤ s.cfg.bufBytes ∧ s.kaddr.toNat + s.klen.toNat ≤ s.cfg.bufBytes := by decide

theorem witness_FeistelInvStoresThePermutedRegion :
    let s : State := { State.reset with src := 4096, len := 0, dst := 4096, kaddr := 4095, klen := 1, rounds := 1 }
    s.rounds ≠ 0 ∧ 1 ≤ s.klen.toNat ∧ s.klen.toNat ≤ 64 ∧ s.src.toNat + s.len.toNat ≤ s.cfg.bufBytes ∧
    s.dst.toNat + s.len.toNat ≤ s.cfg.bufBytes ∧ s.kaddr.toNat + s.klen.toNat ≤ s.cfg.bufBytes := by decide

theorem witness_PrfStoresThePseudorandomBytes :
    let s : State := keyed (hex 3 0x616263) 0
    1 ≤ s.klen.toNat ∧ s.klen.toNat ≤ 64 ∧ s.src.toNat + s.len.toNat ≤ s.cfg.bufBytes ∧
    s.dst.toNat + s.len.toNat ≤ s.cfg.bufBytes ∧ s.kaddr.toNat + s.klen.toNat ≤ s.cfg.bufBytes := by decide

/-- The smallest and the largest base. -/
theorem witness_RadixB2dStoresTheDigits :
    let s : State := { State.reset with src := 4095, len := 1, dst := 4080, base := 2 }
    let u : State := { State.reset with src := 0, len := 2, dst := 4094, base := 65536 }
    (s.cfg.wf = true ∧ 2 ≤ s.base.toNat ∧ s.base.toNat ≤ 65536 ∧ s.src.toNat + s.len.toNat ≤ s.cfg.bufBytes ∧
      s.dst.toNat + 2 * digitCount s.len.toNat s.base.toNat ≤ s.cfg.bufBytes) ∧
    (2 ≤ u.base.toNat ∧ u.base.toNat ≤ 65536 ∧ u.src.toNat + u.len.toNat ≤ u.cfg.bufBytes ∧
      u.dst.toNat + 2 * digitCount u.len.toNat u.base.toNat ≤ u.cfg.bufBytes) := by decide +kernel

theorem witness_RadixD2bStoresTheBytes :
    let s : State := digits 5
    2 ≤ s.base.toNat ∧ s.base.toNat ≤ 65536 ∧ s.src.toNat + 2 * s.xlen.toNat ≤ s.cfg.bufBytes ∧
    s.dst.toNat + s.len.toNat ≤ s.cfg.bufBytes ∧
    (∀ j, j < s.xlen.toNat → s.memRead16 (s.src.toNat + 2 * j) < s.base.toNat) ∧
    numBase s.base.toNat (s.readDigits s.src.toNat s.xlen.toNat) < 256 ^ s.len.toNat := by decide +kernel

theorem witness_RadixDcountPutsTheCountInResult :
    let s : State := { State.reset with len := 4096, base := 2 }
    s.cfg.wf = true ∧ 2 ≤ s.base.toNat ∧ s.base.toNat ≤ 65536 ∧ s.len.toNat ≤ s.cfg.bufBytes := by decide

theorem witness_UnnamedRegistersAreIgnored :
    let s : State := loaded (hex 1 0x61)
    let s' : State := { s with xlen := 7, rounds := 9 }
    s'.cfg = s.cfg ∧ (∀ a, s'.bufByte a = s.bufByte a) ∧ (∀ r ∈ Instr.crc32.registersRead, s'.readReg r = s.readReg r) ∧
    (∃ t t', exec .crc32 s = .next t ∧ exec .crc32 s' = .next t') :=
  ⟨rfl, fun _ => rfl, by decide, _, _, rfl, rfl⟩

theorem witness_RadixCommandsRoundTrip :
    ∃ t, exec .radixB2d (radix [1, 0] 10) = .next t ∧ t.errcode = 0x00 ∧ (radix [1, 0] 10).cfg.wf = true ∧
      (4094 : Word).toNat + (radix [1, 0] 10).len.toNat ≤ (radix [1, 0] 10).cfg.bufBytes :=
  ⟨_, rfl, by decide +kernel, by decide, by decide⟩

theorem witness_FeistelCommandsRoundTrip :
    let s : State := keyed (hex 5 0x48656c6c6f) 3
    ∃ t, exec .feistelFwd s = .next t ∧ t.errcode = 0x00 ∧ s.dst.toNat + s.len.toNat ≤ s.kaddr.toNat ∧
      (4091 : Word).toNat + s.len.toNat ≤ s.cfg.bufBytes :=
  ⟨_, rfl, by decide +kernel, by decide, by decide⟩

/-- The other way round: the destination region lies right behind the key. -/
theorem witness_FeistelCommandsRoundTrip_behind :
    let s : State := { keyed (hex 5 0x48656c6c6f) 3 with dst := 0x107 }
    ∃ t, exec .feistelFwd s = .next t ∧ t.errcode = 0x00 ∧ s.kaddr.toNat + s.klen.toNat ≤ s.dst.toNat :=
  ⟨_, rfl, by decide +kernel, by decide⟩

theorem witness_CrcDetectsEverySingleBitFlip : 2 < (hex 3 0x616263).length ∧ 7 < 8 := by decide

theorem witness_DigitCountIsLeast : 2 ≤ 10 ∧ 4 < digitCount 2 10 := by decide +kernel

theorem witness_DigitsStandForTheBytes : 2 ≤ 65536 ∧ 65536 ≤ 65536 ∧ 1 < digitCount 4 65536 := by decide +kernel

/-- The only zero byte of a padded 54-byte message, and the last of the empty one. -/
theorem witness_ShaPaddingIsLeast :
    (hex 54 1).length < 55 ∧ 55 + 8 < (shaPad (hex 54 1)).length ∧ 55 + 8 < (shaPad []).length ∧
    ([] : List Byte).length < 2 ^ 61 := by decide +kernel

theorem witness_PrfBytesAreMacBytes : 32 < (hex 33 1).length := by decide

theorem witness_CyclicXorBytes : ([] : List Byte) = [] ∧ hex 2 0x8b13 ≠ [] ∧ 2 < (hex 3 0x6c6c6f).length := by decide

theorem witness_FeistelInverseUndoesForward : 1 ≤ (hex 1 0x6b).length ∧ (hex 64 1).length ≤ 64 ∧ 1 ≤ 1 := by decide

theorem witness_SmallRegionsAreUnchanged : ([] : List Byte).length ≤ 1 ∧ (hex 1 0x61).length ≤ 1 := by decide

theorem witness_IdAndParamAreConstant : State.reset.cfg.wf = true := by decide

theorem witness_OperandRegistersStoreWhatIsWritten :
    State.reset.busy = false ∧ ∀ r ∈ [Reg.src, .dst, .len, .xlen, .kaddr, .klen, .base, .rounds], r.isOperand = true := by
  decide

/-- By a completion. -/
theorem witness_IrqRisesOnlyByCompletionOrEnable :
    let s : State := { State.reset with ie := true }.accept 0x00
    ∃ t, step s = .next t ∧ s.irq = false ∧ t.irq = true := ⟨_, rfl, by decide, by decide⟩

/-- By the enable. -/
theorem witness_IrqRisesOnlyByCompletionOrEnable_enable :
    let s : State := { hosted [asmWriteReg Config.standard .ctrl 1] with done := true }
    ∃ t, step s = .next t ∧ s.irq = false ∧ t.irq = true := ⟨_, rfl, by decide, by decide⟩

/-- The last register offset, both ends of the hole, the end of BUF and the last offset of the aperture. -/
theorem witness_BusErrorExactlyForItsCauses :
    (State.reset.hostAccess 0x34 .rd32).2 = .data 0 ∧
    (State.reset.hostAccess 0x38 .rd32).2 = .busError .unmapped ∧
    (State.reset.hostAccess 0x7FFC .rd32).2 = .busError .unmapped ∧
    (State.reset.hostAccess 0x9000 .rd8).2 = .busError .unmapped ∧
    (State.reset.hostAccess 0xFFFF .rd8).2 = .busError .unmapped ∧
    (State.reset.hostAccess 0x36 .rd32).2 = .busError .registerAccess ∧
    (State.reset.hostAccess 0x8001 .rd16).2 = .busError .bufAccess ∧
    (State.reset.hostAccess 0x8FFC (.wr32 0)).2 = .written := by decide

theorem witness_BufWriteStoresLittleEndian :
    State.reset.busy = false ∧ (BusOp.wr32 7).value? = some 7 ∧ 4092 % (BusOp.wr32 7).width = 0 ∧
    4092 + (BusOp.wr32 7).width ≤ State.reset.cfg.bufBytes ∧ (BusOp.wr8 7).value? = some 7 ∧
    4095 + (BusOp.wr8 7).width ≤ State.reset.cfg.bufBytes := by decide

theorem witness_BufReadReturnsLittleEndian :
    State.reset.busy = false ∧ BusOp.rd16.value? = none ∧ 4094 % BusOp.rd16.width = 0 ∧
    4094 + BusOp.rd16.width ≤ State.reset.cfg.bufBytes := by decide

theorem witness_BufReadWhileBusyIsFree :
    (State.reset.accept 0x10).busy = true ∧ BusOp.rd32.value? = none ∧ 4092 % BusOp.rd32.width = 0 ∧
    4092 + BusOp.rd32.width ≤ (State.reset.accept 0x10).cfg.bufBytes := by decide

theorem witness_ReadsHaveNoSideEffect : BusOp.rd8.value? = none ∧ State.reset.busy = false := by decide

theorem witness_SecondCommandWriteIsDropped : State.reset.busy = false := by decide

/-- An item without an access. -/
theorem witness_HostOrderKeepsProgramOrder :
    let s : State := hosted [.barrier, .waitIrq]
    ∃ t, step s = .next t ∧ s.cfg.hostOrder = true ∧ s.programs[0]? = some [.barrier, .waitIrq] ∧
      t.programs[0]? = some [.waitIrq] := ⟨_, rfl, by decide, by decide, by decide⟩

/-- A recorded access. -/
theorem witness_HostOrderKeepsProgramOrder_record :
    let s : State := hosted [.access ⟨0x10, .wr32 0x10⟩, .wait]
    s.cfg.offset? 0x10 = some 0x10 ∧ ∃ t, step s = .next t ∧ t.programs[0]? = some [.wait] ∧
      t.trace = ⟨0, ⟨0x10, .wr32 0x10⟩, .written⟩ :: s.trace := ⟨by decide, _, rfl, by decide, by decide⟩

/-- A refused access, with more of the program behind it. -/
theorem witness_HostOrderKeepsProgramOrder_busError :
    let s : State := hosted [.access ⟨0x0C, .rd16⟩, .barrier, .wait]
    ∃ t, step s = .next t ∧ t.programs[0]? = some [] ∧
      t.trace = ⟨0, ⟨0x0C, .rd16⟩, .busError .registerAccess⟩ :: s.trace := ⟨_, rfl, by decide, by decide⟩

/-- An item behind a barrier, and a barrier behind an item, where HOST_ORDER is false. -/
theorem witness_NothingPassesABarrier :
    let s : State := { hosted [.barrier, .wait, .barrier] with cfg := ⟨1024, false, 0⟩ }
    s.programs[0]? = some [.barrier, .wait, .barrier] ∧ 0 ≤ 1 ∧ 0 < 1 ∧
    [HostItem.barrier, .wait, .barrier][0]? = some .barrier ∧
    [HostItem.barrier, .wait, .barrier][2]? = some .barrier := by decide

theorem witness_WaitEndsExactlyWhenIdle :
    (hosted [.wait]).programs[0]? = some [.wait] ∧ (hosted [.wait]).busy = false ∧
    ((hosted [.wait]).accept 0x10).programs[0]? = some [.wait] ∧ ((hosted [.wait]).accept 0x10).busy = true := by decide

theorem witness_BusErrorEndsTheHostsRun :
    let s : State := hosted [.access ⟨0x0C, .rd16⟩, .wait]
    s.programs[0]? = some [.access ⟨0x0C, .rd16⟩, .wait] ∧ s.cfg.offset? 0x0C = some 0x0C ∧
    (s.hostAccess 0x0C .rd16).2 = .busError .registerAccess := by decide

theorem witness_RunEndsOnlyOnARecordedBusError :
    step { State.reset with trace := [⟨0, ⟨0x0C, .rd16⟩, .busError .registerAccess⟩] } =
      .fault (.busError 0 .registerAccess) := rfl

theorem witness_ResetEventSetsTheResetValues :
    ({ State.reset.accept 0x10 with schedule := [.reset, .engine] } : State).schedule = .reset :: [.engine] := by decide

theorem witness_ResetStateIsLegal : (Config.mk 1024 false 0).wf = true ∧ (Config.mk 32768 true 0).wf = true := by decide

/-- A busy block with written bytes is legal, and its next step leads on. -/
theorem witness_EveryStepKeepsLegalStates :
    ((loaded [1]).accept 0x10).Legal ∧ ∃ t, step ((loaded [1]).accept 0x10) = .next t :=
  ⟨⟨by decide, by decide, by decide, by decide, by decide, by decide, by decide⟩, _, rfl⟩

theorem witness_NoStepChangesTheParameters : ∃ t, step (hosted [.wait]) = .next t ∧ t.programs = [[]] :=
  ⟨_, rfl, by decide⟩

end Sys2Proof.Machine.Tests
end

/-! # Registers, inputs and the invariant (10_state.md)

The statements about the registers rest on one equation per direction of a register access (`hostAccess_readReg`,
`hostAccess_writeReg`). The invariant rests on one lemma per state operation (`legal_writeReg`, `legal_complete`, ...), which
`step_relates` puts together to a step. -/

namespace Sys2Proof.Machine

/-! ### One register access -/

/-- Each register stands alone at its offset (10_state.md R21). -/
theorem route_reg_offset (c : Config) (r : Reg) : route c r.offset 4 = .ok (.reg r) := by
  cases r <;> rfl

/-- A 32-bit read of a register returns it and changes nothing, busy or not (10_state.md R21; 40_control.md R123). -/
theorem hostAccess_readReg (s : State) (r : Reg) : s.hostAccess r.offset .rd32 = (s, .data (s.readReg r)) := by
  simp only [State.hostAccess, BusOp.width, BusOp.value?, route_reg_offset]

/-- A 32-bit write of a register is accepted on the bus, and is `writeReg` (10_state.md R21). -/
theorem hostAccess_writeReg (s : State) (r : Reg) (v : Word) :
    s.hostAccess r.offset (.wr32 v) = (s.writeReg r v, .written) := by
  simp only [State.hostAccess, BusOp.width, BusOp.value?, route_reg_offset]

/-! ### CTRL and STATUS -/

theorem ctrlWord_eq (s : State) : s.ctrlWord = if s.ie then 1 else 0 := by
  unfold State.ctrlWord
  cases s.ie <;> rfl

/-- Settles O36. -/
theorem ctrlWriteKeepsOnlyTheEnable : Obligations.CtrlWriteKeepsOnlyTheEnable := by
  intro s v
  have hwrite : s.hostAccess 0x0008 (.wr32 v) = (s.writeCtrl v, .written) := hostAccess_writeReg s .ctrl v
  have hread : (s.writeCtrl v).hostAccess 0x0008 .rd32 = (s.writeCtrl v, .data (s.writeCtrl v).ctrlWord) :=
    hostAccess_readReg (s.writeCtrl v) .ctrl
  rw [hwrite]
  refine ⟨rfl, ?_⟩
  rw [hread, ctrlWord_eq, writeCtrl_ie]

/-- A flag that a set bit clears, in the model's form and in the spec's. -/
theorem and_not_eq_ite (flag bit : Bool) : (flag && !bit) = if bit then false else flag := by
  cases bit <;> simp

/-- Settles O37. -/
theorem statusWriteClearsItsFields : Obligations.StatusWriteClearsItsFields := by
  intro s v
  have hwrite : s.hostAccess 0x000C (.wr32 v) = (s.writeStatus v, .written) := hostAccess_writeReg s .status v
  simp only [hwrite, State.writeStatus, and_not_eq_ite]

/-- The number in STATUS is the sum of its fields, none of which reaches into the next (10_state.md R25). -/
theorem statusWord_toNat (s : State) :
    s.statusWord.toNat =
      s.busy.toNat + 2 * s.done.toNat + 4 * s.err.toNat + 8 * s.drop.toNat + 256 * s.errcode.toNat := by
  have hcode : s.errcode.toNat < 256 := s.errcode.isLt
  have hbusy := s.busy.toNat_le
  have hdone := s.done.toNat_le
  have herr := s.err.toNat_le
  have hdrop := s.drop.toNat_le
  rw [State.statusWord, BitVec.toNat_ofNat, Nat.mod_eq_of_lt]
  omega

/-- A bit of a word is a flag where the word's number, shifted down to it, is odd exactly for the flag. -/
theorem getLsbD_eq_of_toNat {w : Word} {i : Nat} {flag : Bool} (h : w.toNat / 2 ^ i % 2 = flag.toNat) :
    w.getLsbD i = flag := by
  rw [← BitVec.testBit_toNat, Nat.testBit_eq_decide_div_mod_eq, h]
  cases flag <;> rfl

/-- A field of a word is a value where the word's number, shifted down and cut to the width, is that value's. -/
theorem extractLsb'_eq_of_toNat {w : Word} {start len : Nat} {x : BitVec len}
    (h : w.toNat / 2 ^ start % 2 ^ len = x.toNat) : w.extractLsb' start len = x := by
  apply BitVec.eq_of_toNat_eq
  rw [BitVec.extractLsb'_toNat, Nat.shiftRight_eq_div_pow, h]

/-- Settles O38: the fields of `statusWord_toNat`, each cut out by a division and a remainder. -/
theorem statusReadShowsTheFields : Obligations.StatusReadShowsTheFields := by
  intro s
  have hcode : s.errcode.toNat < 256 := s.errcode.isLt
  have hbusy := s.busy.toNat_le
  have hdone := s.done.toNat_le
  have herr := s.err.toNat_le
  have hdrop := s.drop.toNat_le
  refine ⟨s.statusWord, hostAccess_readReg s .status, getLsbD_eq_of_toNat ?_, getLsbD_eq_of_toNat ?_,
    getLsbD_eq_of_toNat ?_, getLsbD_eq_of_toNat ?_, extractLsb'_eq_of_toNat ?_, extractLsb'_eq_of_toNat ?_,
    extractLsb'_eq_of_toNat ?_⟩
  all_goals
    simp only [statusWord_toNat, BitVec.ofNat_eq_ofNat, BitVec.toNat_ofNat]
    omega

/-! ### ID, PARAM and RESULT -/

theorem bufBytes_le_of_wf {c : Config} (h : c.wf = true) : c.bufBytes ≤ 32768 := by
  simp only [Config.wf, Bool.and_eq_true, decide_eq_true_eq] at h
  exact h.2

/-- With BUF_BYTES in the range of 00_scope.md R7 no bit of PARAM is lost. -/
theorem paramWord_toNat {c : Config} (h : c.wf = true) : c.paramWord.toNat = 0x00400000 + c.bufBytes := by
  have hsize := bufBytes_le_of_wf h
  rw [Config.paramWord, BitVec.toNat_ofNat, Nat.mod_eq_of_lt]
  omega

/-- The fields of PARAM (10_state.md R23). -/
theorem paramWord_fields {c : Config} (h : c.wf = true) :
    (c.paramWord.extractLsb' 0 16).toNat = c.bufBytes ∧ c.paramWord.extractLsb' 16 8 = 64 ∧
      c.paramWord.extractLsb' 24 8 = 0 := by
  have hsize := bufBytes_le_of_wf h
  have hword := paramWord_toNat h
  refine ⟨?_, extractLsb'_eq_of_toNat ?_, extractLsb'_eq_of_toNat ?_⟩
  · rw [BitVec.extractLsb'_toNat, Nat.shiftRight_eq_div_pow, hword]
    omega
  all_goals
    simp only [hword, BitVec.ofNat_eq_ofNat, BitVec.toNat_ofNat]
    omega

/-- Settles O39. -/
theorem idAndParamAreConstant : Obligations.IdAndParamAreConstant := by
  intro s v hwf
  obtain ⟨hsize, hkey, hreserved⟩ := paramWord_fields hwf
  exact ⟨hostAccess_readReg s .id, hostAccess_writeReg s .id v, hostAccess_writeReg s .param v,
    ⟨s.cfg.paramWord, hostAccess_readReg s .param, hsize, hkey, hreserved, hostAccess_readReg s.resetEvent .param⟩,
    hostAccess_readReg s.resetEvent .id⟩

/-- Settles O41. -/
theorem resultIsReadOnly : Obligations.ResultIsReadOnly := fun s v =>
  ⟨hostAccess_readReg s .result, hostAccess_writeReg s .result v⟩

/-! ### The operand registers -/

/-- An idle block stores the written operand (10_state.md R28). -/
theorem writeReg_operand_idle {s : State} {r : Reg} (v : Word) (hidle : s.busy = false) (hr : r.isOperand = true) :
    s.writeReg r v = s.setOperand r v := by
  cases r <;> simp [Reg.isOperand] at hr <;> simp [State.writeReg, hidle]

theorem readReg_setOperand_same (s : State) {r : Reg} (v : Word) (hr : r.isOperand = true) :
    (s.setOperand r v).readReg r = v := by
  cases r <;> simp [Reg.isOperand] at hr <;> simp [State.readReg]

theorem readReg_setOperand_other (s : State) {r r' : Reg} (v : Word) (hne : r' ≠ r) :
    (s.setOperand r v).readReg r' = s.readReg r' := by
  cases r' <;> simp [State.readReg, State.ctrlWord, State.statusWord, hne.symm]

/-- Outside the operand registers an operand write changes nothing. -/
theorem setOperand_frame (s : State) (r : Reg) (v : Word) :
    { s.setOperand r v with
      src := s.src, dst := s.dst, len := s.len, xlen := s.xlen, kaddr := s.kaddr, klen := s.klen, base := s.base,
      rounds := s.rounds } = s := by
  cases r <;> rfl

/-- Settles O40. -/
theorem operandRegistersStoreWhatIsWritten : Obligations.OperandRegistersStoreWhatIsWritten := by
  refine ⟨fun s => ⟨hostAccess_readReg s .cmd, hostAccess_readReg s .src, hostAccess_readReg s .dst,
    hostAccess_readReg s .len, hostAccess_readReg s .xlen, hostAccess_readReg s .kaddr, hostAccess_readReg s .klen,
    hostAccess_readReg s .base, hostAccess_readReg s .rounds⟩, fun s r v hidle hr => ?_⟩
  refine ⟨s.setOperand r v, ?_, ?_, fun r' hne => readReg_setOperand_other s v hne, setOperand_frame s r v⟩
  · rw [hostAccess_writeReg, writeReg_operand_idle v hidle hr]
  · rw [hostAccess_readReg, readReg_setOperand_same s v hr]

/-! ### The parameters -/

/-- Settles O59: of the events only a reset and the engine's turn go beyond `hostAccess_frame`, and both leave the
parameters and the programs. -/
theorem noStepChangesTheParameters : Obligations.NoStepChangesTheParameters := by
  intro s t hstep
  refine step_relates (fun a b => b.cfg = a.cfg ∧ b.programs.length = a.programs.length)
    (fun _ => ⟨rfl, rfl⟩) (fun a b c hab hbc => ⟨hbc.1.trans hab.1, hbc.2.trans hab.2⟩)
    (fun _ _ _ _ hlen => ⟨rfl, hlen⟩) ?access ?engine (fun _ => ⟨rfl, rfl⟩) hstep
  case access =>
    intro s off op
    obtain ⟨hcfg, hprograms, _⟩ := hostAccess_frame s off op
    exact ⟨hcfg, congrArg List.length hprograms⟩
  case engine =>
    intro s t hturn
    rcases engineTurn_cases s with ⟨_, h⟩ | ⟨_, i, _, h⟩ | ⟨_, e, _, h⟩ <;> rw [h] at hturn <;>
      cases hturn <;> simp [complete_frame]

/-! ### The inputs of a command in flight -/

/-- What holds the inputs of a command in flight: CMD, the operand registers, RESULT, and BUF with the number of its
reset. -/
def State.heldInputs (s : State) : List Word × Memory × Nat :=
  ([s.cmd, s.src, s.dst, s.len, s.xlen, s.kaddr, s.klen, s.base, s.rounds, s.result], s.buf, s.resets)

/-- Equal inputs are equal registers and equal bytes of BUF. -/
theorem inputs_eq_of_heldInputs {s t : State} (h : t.heldInputs = s.heldInputs) :
    t.cmd = s.cmd ∧ t.src = s.src ∧ t.dst = s.dst ∧ t.len = s.len ∧ t.xlen = s.xlen ∧ t.kaddr = s.kaddr ∧
    t.klen = s.klen ∧ t.base = s.base ∧ t.rounds = s.rounds ∧ t.result = s.result ∧
    ∀ a, t.bufByte a = s.bufByte a := by
  simp only [State.heldInputs, Prod.mk.injEq, List.cons.injEq, and_true] at h
  obtain ⟨⟨h1, h2, h3, h4, h5, h6, h7, h8, h9, h10⟩, hbuf, hresets⟩ := h
  exact ⟨h1, h2, h3, h4, h5, h6, h7, h8, h9, h10, bufByte_congr hbuf hresets⟩

/-- The block stays busy, with the same inputs. -/
def State.StaysInFlight (s t : State) : Prop := t.busy = true ∧ t.heldInputs = s.heldInputs

/-- A busy block drops every write but those of CTRL and STATUS (40_control.md R121, R122). -/
theorem hostAccess_staysInFlight {s : State} (hb : s.busy = true) (off : Nat) (op : BusOp) :
    s.StaysInFlight (s.hostAccess off op).1 := by
  rcases hostAccess_cases s off op with h | ⟨r, v, h⟩ | ⟨_, h⟩ | ⟨_, h⟩ | ⟨hidle, _⟩
  case inr.inr.inr.inr => simp [hb] at hidle
  case inr.inl =>
    rw [h]
    rcases writeReg_cases s r v with h | h | h | ⟨_, h⟩ | ⟨hidle, _⟩
    case inr.inr.inr.inr => simp [hb] at hidle
    all_goals
      rw [h]
      exact ⟨hb, rfl⟩
  all_goals
    rw [h]
    exact ⟨hb, rfl⟩

/-- A preorder that holds across a change of the surroundings and across every host access holds across a host's turn. -/
theorem hostTurn_relates (P : State → State → Prop) (hrefl : ∀ s, P s s) (htrans : ∀ a b c, P a b → P b c → P a c)
    (haround : ∀ (s : State) ps tr, P s { s with programs := ps, trace := tr })
    (haccess : ∀ s off op, P s (State.hostAccess s off op).1) (s : State) (h k : Nat) : P s (s.hostTurn h k) := by
  have hserve : ∀ a, P s (s.serve h a).1 := by
    intro a
    rcases serve_cases s h a with hs | ⟨off, rep, hs⟩ <;> rw [hs]
    · exact hrefl _
    · exact htrans _ _ _ (haccess s off a.op) (haround _ _ _)
  rcases hostTurn_cases s h k with ht | ⟨p, item, _, _, _, ht⟩ <;> rw [ht]
  · exact hrefl _
  · rcases performItem_cases s h k p item with hi | hi | ⟨a, hi⟩ | ⟨a, q, _, hi⟩ <;> rw [hi]
    · exact hrefl _
    · exact haround _ _ _
    · exact hserve a
    · exact htrans _ _ _ (hserve a) (haround _ _ _)

theorem hostTurn_staysInFlight {s : State} (hb : s.busy = true) (h k : Nat) : s.StaysInFlight (s.hostTurn h k) :=
  hostTurn_relates (fun a b => a.busy = true → a.StaysInFlight b) (fun _ hb => ⟨hb, rfl⟩)
    (fun _ _ _ hab hbc ha => ⟨(hbc (hab ha).1).1, (hbc (hab ha).1).2.trans (hab ha).2⟩)
    (fun _ _ _ hb => ⟨hb, rfl⟩) (fun _ off op hb => hostAccess_staysInFlight hb off op) s h k hb

/-- Only a completion or a reset ends the busy interval, and nothing else moves the inputs (40_control.md R121, R125). -/
theorem step_heldInputs {s t : State} (hstep : step s = .next t) (hs : s.busy = true) (ht : t.busy = true) :
    t.heldInputs = s.heldInputs := by
  obtain ⟨s₀, rfl, hmove⟩ := step_cases hstep
  rcases hmove with ⟨h, k, hturn⟩ | hturn | hreset | hstay
  · rw [hturn]
    exact (hostTurn_staysInFlight (s := { s with schedule := s.schedule.tail }) hs h k).2
  · rcases engineTurn_cases { s with schedule := s.schedule.tail } with ⟨_, h⟩ | ⟨_, i, _, h⟩ | ⟨_, e, _, h⟩ <;>
      rw [h] at hturn <;> cases hturn
    · rfl
    · simp [complete_flags] at ht
    · simp at ht
  · simp [hreset] at ht
  · rw [hstay]
    rfl

theorem nextOf_eq_some {o : Host.Outcome State Fault Refusal} {s : State} : nextOf o = some s ↔ o = .next s := by
  cases o <;> simp [nextOf]

/-- A run of k + 1 steps is a step and a run of k steps. -/
theorem runSteps_succ_eq_some {k : Nat} {s t : State} :
    runSteps (k + 1) s = some t ↔ ∃ u, step s = .next u ∧ runSteps k u = some t := by
  simp only [runSteps, Option.bind_eq_some_iff, nextOf_eq_some]

/-- Settles O9, by induction on the number of steps. -/
theorem inputsStayFixedWhileBusy : Obligations.InputsStayFixedWhileBusy := by
  intro k s t hbusy hrun
  apply inputs_eq_of_heldInputs
  induction k generalizing s with
  | zero =>
    cases hrun
    rfl
  | succ k ih =>
    obtain ⟨u, hstep, hrest⟩ := runSteps_succ_eq_some.1 hrun
    have hlater : ∀ j, j ≤ k → ∃ v, runSteps j u = some v ∧ v.busy = true := by
      intro j hj
      obtain ⟨v, hv, hvb⟩ := hbusy (j + 1) (by omega)
      obtain ⟨u', hstep', hv'⟩ := runSteps_succ_eq_some.1 hv
      cases hstep.symm.trans hstep'
      exact ⟨v, hv', hvb⟩
    obtain ⟨_, ⟨⟩, hs⟩ := hbusy 0 (Nat.zero_le _)
    obtain ⟨_, ⟨⟩, hu⟩ := hlater 0 (Nat.zero_le _)
    exact (ih u hlater hrest).trans (step_heldInputs hstep hs hu)

/-! ### The lengths of what the commands store -/

@[simp] theorem length_be32 (v : Word) : (be32 v).length = 4 := rfl

@[simp] theorem length_hashWords_bytes (v : HashWords) : v.bytes.length = 32 := rfl

@[simp] theorem length_hmac (k m : List Byte) : (hmac k m).length = 32 := length_hashWords_bytes _

/-- As many 32-byte MACs as cover |x| bytes, cut to |x| bytes (43_prp.md R193). -/
@[simp] theorem length_prf (x k : List Byte) (r : Word) : (prf x k r).length = x.length := by
  have hmacs : (((List.range ((x.length + 31) / 32)).flatMap fun c =>
      hmac k (x ++ be32 r ++ be32 (BitVec.ofNat 32 c))).length) = (x.length + 31) / 32 * 32 := by
    simp [List.length_flatMap]
  rw [prf, List.length_take, hmacs]
  omega

theorem length_feistelRounds (k : List Byte) (n i : Nat) (l r : List Byte) :
    (feistelRounds k n i l r).length = l.length + r.length := by
  induction n generalizing i l r with
  | zero => simp [feistelRounds]
  | succ n ih =>
    rw [feistelRounds, ih, length_xorc]
    omega

theorem length_feistelUnrounds (k : List Byte) (n : Nat) (l r : List Byte) :
    (feistelUnrounds k n l r).length = l.length + r.length := by
  induction n generalizing l r with
  | zero => simp [feistelUnrounds]
  | succ n ih =>
    rw [feistelUnrounds, ih, length_xorc]
    omega

@[simp] theorem length_feistelFwd (m k : List Byte) (rho : Nat) : (feistelFwd m k rho).length = m.length := by
  rw [feistelFwd, length_feistelRounds, ← List.length_append, List.take_append_drop]

@[simp] theorem length_feistelInv (m k : List Byte) (rho : Nat) : (feistelInv m k rho).length = m.length := by
  rw [feistelInv, length_feistelUnrounds, ← List.length_append, List.take_append_drop]

@[simp] theorem length_bytesToDigits (m : List Byte) (B : Nat) :
    (bytesToDigits m B).length = digitCount m.length B := by
  simp [bytesToDigits]

/-! ### A command stores inside BUF -/

/-- Every recorded write of the outcome lies inside BUF. -/
def RunOutcome.WritesInside (c : Config) : RunOutcome → Prop
  | .ok ws _ => ∀ w ∈ ws, w.addr + w.bytes.length ≤ c.bufBytes
  | .err _ => True

/-- An outcome without writes stores nothing outside BUF. -/
theorem writesInside_ok_nil (c : Config) (res : Option Word) : (RunOutcome.ok [] res).WritesInside c := by
  simp [RunOutcome.WritesInside]

theorem writesInside_ok_single {c : Config} {a : Nat} {bs : List Byte} (res : Option Word)
    (h : a + bs.length ≤ c.bufBytes) : (RunOutcome.ok [⟨a, bs⟩] res).WritesInside c := by
  simpa [RunOutcome.WritesInside] using h

/-- A command whose rule stores inside BUF where its checks pass does so always: a failing check records no write. -/
theorem writesInside_runChecked {c : Config} {cs : List Check} {rule : State → RunOutcome} {s : State}
    (h : firstError cs s = none → (rule s).WritesInside c) : (runChecked cs rule s).WritesInside c := by
  rcases runChecked_cases cs rule s with ⟨e, _, hrun⟩ | ⟨hpass, hrun⟩ <;> rw [hrun]
  · trivial
  · exact h hpass

/-- Check 6 of 40_control.md R126 keeps the destination inside BUF. -/
theorem destination_inside {cs : List Check} {region : State → Region} {s : State} (hpass : firstError cs s = none)
    (hmem : checkDst region ∈ cs) : (region s).addr + (region s).size ≤ s.cfg.bufBytes :=
  (checkDst_eq_none region s).1 ((firstError_eq_none cs s).1 hpass _ hmem)

/-- The three keyed commands store LEN bytes at DST. -/
theorem writesInside_keyed {cs : List Check} {rule : State → RunOutcome} {s : State} {out : List Byte}
    (hrule : rule s = keyedResult s out) (hmem : checkDst State.dstBytes ∈ cs) (hlen : out.length = s.len.toNat) :
    (runChecked cs rule s).WritesInside s.cfg := by
  refine writesInside_runChecked fun hpass => ?_
  rw [hrule]
  refine writesInside_ok_single (some s.len) ?_
  rw [hlen]
  exact destination_inside hpass hmem

/-- No command stores outside BUF: what it stores is as long as the destination that check 6 has tested. -/
theorem writesInside_runOf (i : Instr) (s : State) : (runOf i s).WritesInside s.cfg := by
  cases i with
  | nop => exact writesInside_ok_nil _ _
  | crc32 => exact writesInside_runChecked fun _ => writesInside_ok_nil _ _
  | radixDcount => exact writesInside_runChecked fun _ => writesInside_ok_nil _ _
  | feistelFwd =>
    exact writesInside_keyed rfl (by simp [feistelChecks, keyedChecks]) (by simp [State.readRegion, State.srcBytes])
  | feistelInv =>
    exact writesInside_keyed rfl (by simp [feistelChecks, keyedChecks]) (by simp [State.readRegion, State.srcBytes])
  | prf => exact writesInside_keyed rfl (by simp [keyedChecks]) (by simp [State.readRegion, State.srcBytes])
  | radixB2d =>
    refine writesInside_runChecked fun hpass => writesInside_ok_single _ ?_
    have hdst : s.dst.toNat + 2 * s.digitTotal ≤ s.cfg.bufBytes :=
      destination_inside (region := State.dstDigits) hpass (by simp [radixB2dChecks])
    simpa [State.readRegion, State.srcBytes, State.digitTotal] using hdst
  | radixD2b =>
    refine writesInside_runChecked fun hpass => writesInside_ok_single _ ?_
    have hdst : s.dst.toNat + s.len.toNat ≤ s.cfg.bufBytes :=
      destination_inside (region := State.dstBytes) hpass (by simp [radixD2bChecks])
    simpa using hdst

/-! ### The invariant -/

/-- Legality reads nothing but the parameters, the phase, STATUS without DROP, and the byte store. -/
theorem legal_congr {s t : State} (h : s.Legal) (hcfg : t.cfg = s.cfg) (hphase : t.phase = s.phase)
    (hbusy : t.busy = s.busy) (hdone : t.done = s.done) (herr : t.err = s.err) (hcode : t.errcode = s.errcode)
    (hbuf : t.buf = s.buf) : t.Legal where
  cfg_wf := by rw [hcfg]; exact h.cfg_wf
  phase_busy := by rw [hphase, hbusy]; exact h.phase_busy
  busy_clear := by rw [hbusy, hdone, herr, hcode]; exact h.busy_clear
  err_code := by rw [herr, hcode]; exact h.err_code
  code_known := by rw [hcode]; exact h.code_known
  buf_wf := by rw [hbuf]; exact h.buf_wf
  buf_inside := by rw [hbuf, hcfg]; exact h.buf_inside

theorem legal_resetOf {c : Config} (h : c.wf = true) : (State.resetOf c).Legal where
  cfg_wf := h
  phase_busy := by simp [State.resetOf]
  busy_clear := fun _ => ⟨rfl, rfl, rfl⟩
  err_code := by simp [State.resetOf]
  code_known := Nat.zero_le 9
  buf_wf := wf_nil
  buf_inside := rfl

/-- Settles O57. -/
theorem resetStateIsLegal : Obligations.ResetStateIsLegal :=
  ⟨legal_resetOf (by decide), fun _ hc => legal_resetOf hc⟩

theorem legal_resetEvent {s : State} (h : s.Legal) : s.resetEvent.Legal :=
  legal_congr (legal_resetOf h.cfg_wf) rfl rfl rfl rfl rfl rfl rfl

/-- A STATUS write clears flags and sets none (10_state.md R26). -/
theorem legal_writeStatus {s : State} (h : s.Legal) (v : Word) : (s.writeStatus v).Legal where
  cfg_wf := h.cfg_wf
  phase_busy := h.phase_busy
  busy_clear := by
    intro hb
    obtain ⟨hdone, herr, hcode⟩ := h.busy_clear hb
    simp [hdone, herr, hcode]
  err_code := by
    intro he
    rw [writeStatus_err, Bool.and_eq_true] at he
    exact h.err_code he.1
  code_known := h.code_known
  buf_wf := h.buf_wf
  buf_inside := h.buf_inside

/-- An accept makes the block Busy and clears DONE, ERR and ERRCODE together (40_control.md R120). -/
theorem legal_accept {s : State} (h : s.Legal) (v : Word) : (s.accept v).Legal where
  cfg_wf := h.cfg_wf
  phase_busy := by simp
  busy_clear := by simp
  err_code := by simp
  code_known := by simp
  buf_wf := h.buf_wf
  buf_inside := h.buf_inside

theorem legal_writeReg {s : State} (h : s.Legal) (r : Reg) (v : Word) : (s.writeReg r v).Legal := by
  rcases writeReg_cases s r v with hw | hw | hw | ⟨_, hw⟩ | ⟨_, hw | hw⟩ <;> rw [hw]
  case inl => exact h
  case inr.inl => exact legal_congr h rfl rfl rfl rfl rfl rfl rfl
  case inr.inr.inl => exact legal_writeStatus h v
  case inr.inr.inr.inl => exact legal_congr h rfl rfl rfl rfl rfl rfl rfl
  case inr.inr.inr.inr.inl => exact legal_accept h v
  case inr.inr.inr.inr.inr => apply legal_congr h <;> simp

/-- A store inside BUF keeps the byte store canonical and inside BUF (log 4). -/
theorem legal_storeBytes {s : State} (h : s.Legal) {a : Nat} {bs : List Byte} (hin : a + bs.length ≤ s.cfg.bufBytes) :
    (s.storeBytes a bs).Legal where
  cfg_wf := h.cfg_wf
  phase_busy := h.phase_busy
  busy_clear := h.busy_clear
  err_code := h.err_code
  code_known := h.code_known
  buf_wf := wf_writeBytes a bs h.buf_wf
  buf_inside := below_writeBytes h.buf_inside hin

theorem legal_hostAccess {s : State} (h : s.Legal) (off : Nat) (op : BusOp) : (s.hostAccess off op).1.Legal := by
  rcases hostAccess_cases s off op with ha | ⟨r, v, ha⟩ | ⟨_, ha⟩ | ⟨_, ha⟩ | ⟨_, a, bs, hin, ha⟩ <;> rw [ha]
  · exact h
  · exact legal_writeReg h r v
  · exact legal_congr h rfl rfl rfl rfl rfl rfl rfl
  · exact legal_congr h rfl rfl rfl rfl rfl rfl rfl
  · exact legal_storeBytes h hin

theorem legal_applyWrites {s : State} (h : s.Legal) {ws : List MemWrite}
    (hin : ∀ w ∈ ws, w.addr + w.bytes.length ≤ s.cfg.bufBytes) : (s.applyWrites ws).Legal := by
  induction ws generalizing s with
  | nil => exact h
  | cons w ws ih =>
    rw [List.forall_mem_cons] at hin
    exact ih (legal_storeBytes h hin.1) hin.2

/-- A completion makes the block Idle, and ERR goes with the code (40_control.md R124). -/
theorem legal_finish {s : State} (h : s.Legal) {code : BitVec 8} (hcode : code.toNat ≤ 9) : (s.finish code).Legal where
  cfg_wf := h.cfg_wf
  phase_busy := by simp
  busy_clear := by simp
  err_code := by simp
  code_known := hcode
  buf_wf := h.buf_wf
  buf_inside := h.buf_inside

theorem legal_complete {s : State} (h : s.Legal) {r : RunOutcome} (hin : r.WritesInside s.cfg) :
    (s.complete r).Legal := by
  cases r with
  | ok ws res =>
    have hwrites : (s.applyWrites ws).Legal := legal_applyWrites h hin
    have hresult : ((s.applyWrites ws).setResult res).Legal := legal_congr hwrites rfl rfl rfl rfl rfl rfl rfl
    exact legal_finish hresult (Nat.zero_le 9)
  | err e => exact legal_finish h (code_le_nine e)

theorem legal_engineTurn {s t : State} (h : s.Legal) (hturn : engineTurn s = .next t) : t.Legal := by
  rcases engineTurn_cases s with ⟨_, he⟩ | ⟨_, i, _, he⟩ | ⟨_, e, _, he⟩ <;> rw [he] at hturn <;> cases hturn
  · exact h
  · exact legal_complete h (writesInside_runOf i s)
  · exact legal_finish h (by decide)

/-- Settles O58: each event keeps the invariant, so every step does. -/
theorem everyStepKeepsLegalStates : Obligations.EveryStepKeepsLegalStates := fun _ _ hlegal hstep =>
  step_relates (fun a b => a.Legal → b.Legal) (fun _ h => h) (fun _ _ _ hab hbc h => hbc (hab h))
    (fun _ _ _ _ _ h => legal_congr h rfl rfl rfl rfl rfl rfl rfl) (fun _ off op h => legal_hostAccess h off op)
    (fun _ _ hturn h => legal_engineTurn h hturn) (fun _ h => legal_resetEvent h) hstep hlegal

end Sys2Proof.Machine

/-! # Host accesses to BUF, and the hosts' programs (20_memory.md)

The statements about BUF rest on what byte `k` is: of the bytes that a write stores (`leBytes_getD`) and of the number that a
read returns (`ofNat_numLe_div`). The statement about program order rests on `ProgramEvent`, which says in one place what a
step does to the programs and to the record. -/

namespace Sys2Proof.Machine

/-! ### Little-endian bytes of a word (20_memory.md R62) -/

theorem leBytes_getD {k n : Nat} (v : Nat) (h : k < n) : (leBytes v n).getD k 0 = BitVec.ofNat 8 (v / 256 ^ k) := by
  induction n generalizing v k with
  | zero => omega
  | succ n ih =>
    cases k with
    | zero => simp [leBytes]
    | succ k =>
      rw [leBytes, List.getD_cons_succ, ih _ (by omega), Nat.div_div_eq_div_mul, ← Nat.pow_succ']

/-- Bits 8k+7 to 8k of a word are byte k of its number. -/
theorem extractLsb'_byte (w : Word) (k : Nat) : w.extractLsb' (8 * k) 8 = BitVec.ofNat 8 (w.toNat / 256 ^ k) := by
  apply extractLsb'_eq_of_toNat
  rw [Nat.pow_mul, BitVec.toNat_ofNat]

theorem numLe_lt (bs : List Byte) : numLe bs < 256 ^ bs.length := by
  induction bs with
  | nil => simp [numLe]
  | cons b bs ih =>
    have hb : b.toNat < 256 := b.isLt
    rw [numLe, List.length_cons, Nat.pow_succ']
    omega

/-- Byte k of the number a byte string stands for is the string's. -/
theorem ofNat_numLe_div (bs : List Byte) (k : Nat) : BitVec.ofNat 8 (numLe bs / 256 ^ k) = bs.getD k 0 := by
  induction bs generalizing k with
  | nil => simp [numLe]
  | cons b bs ih =>
    have hb : b.toNat < 256 := b.isLt
    cases k with
    | zero =>
      apply BitVec.eq_of_toNat_eq
      simp only [numLe, BitVec.toNat_ofNat, List.getD_cons_zero]
      omega
    | succ k =>
      have hrest : (b.toNat + 256 * numLe bs) / 256 = numLe bs := by omega
      rw [numLe, Nat.pow_succ', ← Nat.div_div_eq_div_mul, hrest, ih, List.getD_cons_succ]

theorem numLe_concat (bs : List Byte) (b : Byte) : numLe (bs ++ [b]) = numLe bs + 256 ^ bs.length * b.toNat := by
  induction bs with
  | nil => simp [numLe]
  | cons c bs ih =>
    simp only [List.cons_append, numLe, ih, List.length_cons]
    ring

/-- The number that the bytes of a region stand for is R62's sum. -/
theorem numLe_memRead (s : State) (a n : Nat) :
    numLe (s.memRead a n) = ((List.range n).map fun k => 256 ^ k * (s.bufByte (a + k)).toNat).sum := by
  induction n with
  | zero => rfl
  | succ n ih =>
    have hlast : s.memRead a (n + 1) = s.memRead a n ++ [s.bufByte (a + n)] := by
      simp [State.memRead, List.range_succ]
    rw [hlast, numLe_concat, ih, length_memRead, List.range_succ]
    simp

/-- Up to four bytes fit into the word that a read returns. -/
theorem numLe_word_toNat {bs : List Byte} (h : bs.length ≤ 4) : (BitVec.ofNat 32 (numLe bs)).toNat = numLe bs := by
  have hfit : 256 ^ bs.length ≤ 256 ^ 4 := Nat.pow_le_pow_right (by omega) h
  rw [BitVec.toNat_ofNat, Nat.mod_eq_of_lt]
  exact (numLe_lt bs).trans_le hfit

theorem numLe_word_byte {bs : List Byte} (h : bs.length ≤ 4) (k : Nat) :
    (BitVec.ofNat 32 (numLe bs)).extractLsb' (8 * k) 8 = bs.getD k 0 := by
  rw [extractLsb'_byte, numLe_word_toNat h, ofNat_numLe_div]

/-! ### One access to BUF -/

theorem width_pos (op : BusOp) : 0 < op.width := by cases op <;> simp [BusOp.width]

theorem width_le_four (op : BusOp) : op.width ≤ 4 := by cases op <;> simp [BusOp.width]

/-- An aligned access inside BUF reaches BUF (20_memory.md R60, R62). -/
theorem route_buf {c : Config} {a w : Nat} (hw : 0 < w) (halign : a % w = 0) (hin : a + w ≤ c.bufBytes) :
    route c (0x8000 + a) w = .ok (.buf a) := by
  have hreg : ¬ 0x8000 + a < registerBytes := by unfold registerBytes; omega
  have hgap : ¬ 0x8000 + a < bufWindow := by unfold bufWindow; omega
  have haddr : 0x8000 + a - bufWindow = a := by unfold bufWindow; omega
  have hend : ¬ c.bufBytes ≤ a := by omega
  rw [route, if_neg hreg, if_neg hgap, haddr, if_neg hend, if_pos ⟨halign, hin⟩]

theorem hostAccess_readBuf {s : State} {a : Nat} {op : BusOp} (hread : op.value? = none) (halign : a % op.width = 0)
    (hin : a + op.width ≤ s.cfg.bufBytes) :
    s.hostAccess (0x8000 + a) op = ((s.readBuf a op.width).1, .data (s.readBuf a op.width).2) := by
  simp only [State.hostAccess, route_buf (width_pos op) halign hin, hread]

theorem hostAccess_writeBuf {s : State} {a : Nat} {op : BusOp} {v : Word} (hwrite : op.value? = some v)
    (halign : a % op.width = 0) (hin : a + op.width ≤ s.cfg.bufBytes) :
    s.hostAccess (0x8000 + a) op = (s.writeBuf a op.width v, .written) := by
  simp only [State.hostAccess, route_buf (width_pos op) halign hin, hwrite]

theorem writeBuf_idle {s : State} (hidle : s.busy = false) (a w : Nat) (v : Word) :
    s.writeBuf a w v = s.storeBytes a (leBytes v.toNat w) := by
  simp [State.writeBuf, hidle]

theorem readBuf_idle {s : State} (hidle : s.busy = false) (a w : Nat) :
    s.readBuf a w = (s, BitVec.ofNat 32 (numLe (s.memRead a w))) := by
  simp [State.readBuf, hidle]

/-- Settles O45. -/
theorem bufWriteStoresLittleEndian : Obligations.BufWriteStoresLittleEndian := by
  intro s a op v hidle hwrite halign hin
  refine ⟨s.storeBytes a (leBytes v.toNat op.width), ?_, fun k hk => ?_, fun x hx => ?_, rfl⟩
  · rw [hostAccess_writeBuf hwrite halign hin, writeBuf_idle hidle]
  · have hinside : a ≤ a + k ∧ a + k < a + (leBytes v.toNat op.width).length := by
      rw [length_leBytes]
      omega
    rw [bufByte_storeBytes, if_pos hinside, Nat.add_sub_cancel_left, leBytes_getD v.toNat hk, extractLsb'_byte]
  · have houtside : ¬ (a ≤ x ∧ x < a + (leBytes v.toNat op.width).length) := by
      rw [length_leBytes]
      omega
    rw [bufByte_storeBytes, if_neg houtside]

/-- Settles O46. -/
theorem bufReadReturnsLittleEndian : Obligations.BufReadReturnsLittleEndian := by
  intro s a op hidle hread halign hin
  have hlen : (s.memRead a op.width).length ≤ 4 := (length_memRead s a op.width).trans_le (width_le_four op)
  refine ⟨BitVec.ofNat 32 (numLe (s.memRead a op.width)), ?_, ?_, fun k hk => ?_⟩
  · rw [hostAccess_readBuf hread halign hin, readBuf_idle hidle]
  · rw [numLe_word_toNat hlen, numLe_memRead]
  · rw [numLe_word_byte hlen, memRead_getD s a op.width k hk]

/-! ### Reads, dropped commands and refused accesses at the block -/

/-- A read changes nothing, but that a busy block draws free bytes for it (40_control.md R123; log 3). -/
theorem hostAccess_read_cases (s : State) (off : Nat) {op : BusOp} (hread : op.value? = none) :
    (s.hostAccess off op).1 = s ∨
    (s.busy = true ∧ (s.hostAccess off op).1 = { s with draws := s.draws + op.width }) := by
  unfold State.hostAccess
  rw [hread]
  split
  · exact .inl rfl
  · exact .inl rfl
  · cases hb : s.busy with
    | false => exact .inl (by simp [State.readBuf, hb])
    | true => exact .inr ⟨rfl, by simp [State.readBuf, hb]⟩

/-- Settles O48. -/
theorem readsHaveNoSideEffect : Obligations.ReadsHaveNoSideEffect := by
  intro s off op hread
  rcases hostAccess_read_cases s off hread with h | ⟨hbusy, h⟩ <;> rw [h]
  · exact ⟨rfl, fun _ => rfl⟩
  · exact ⟨rfl, fun hidle => by simp [hbusy] at hidle⟩

theorem writeReg_cmd_idle {s : State} (hidle : s.busy = false) (v : Word) : s.writeReg .cmd v = s.accept v := by
  simp [State.writeReg, hidle]

theorem writeReg_cmd_busy {s : State} (hbusy : s.busy = true) (v : Word) : s.writeReg .cmd v = s.setDrop := by
  simp [State.writeReg, hbusy]

/-- Settles O49: the accept of the first write makes the block busy, so it drops the second. -/
theorem secondCommandWriteIsDropped : Obligations.SecondCommandWriteIsDropped := by
  intro s v w hidle
  have hfirst : s.hostAccess 0x0010 (.wr32 v) = (s.accept v, .written) := by
    rw [← writeReg_cmd_idle hidle]
    exact hostAccess_writeReg s .cmd v
  have hsecond : (s.accept v).hostAccess 0x0010 (.wr32 w) = ((s.accept v).setDrop, .written) := by
    rw [← writeReg_cmd_busy (accept_busy s v) w]
    exact hostAccess_writeReg (s.accept v) .cmd w
  rw [hfirst, hsecond]
  exact ⟨rfl, rfl⟩

/-- A refused access changes no state of the block (20_memory.md R63). -/
theorem hostAccess_refused {s : State} {off : Nat} {op : BusOp} {c : BusCause}
    (h : (s.hostAccess off op).2 = .busError c) : (s.hostAccess off op).1 = s := by
  cases hroute : route s.cfg off op.width with
  | error e => simp only [State.hostAccess, hroute]
  | ok target => cases target <;> cases hvalue : op.value? <;> simp [State.hostAccess, hroute, hvalue] at h

/-- A host's turn with the oldest item performs it, under either HOST_ORDER. -/
theorem hostTurn_oldest {s : State} {h : Nat} {item : HostItem} {rest : List HostItem}
    (hp : s.programs[h]? = some (item :: rest)) : s.hostTurn h 0 = s.performItem h 0 (item :: rest) item := by
  simp [State.hostTurn, hp, deliverable]

/-- Settles O53. -/
theorem busErrorEndsTheHostsRun : Obligations.BusErrorEndsTheHostsRun := by
  intro s h off a rest c hp hoff hrefused
  have hserve : s.serve h a = ({ s with trace := ⟨h, a, .busError c⟩ :: s.trace }, some (.busError c)) := by
    rw [serve_inside h hoff, hostAccess_refused hrefused, hrefused]
  rw [hostTurn_oldest hp, State.performItem, hserve]
  rfl

/-! ### Where a run ends (20_memory.md R63; log 8) -/

/-- The engine's turn ends no run. -/
theorem engineTurn_isNext (s : State) : ∃ t, engineTurn s = .next t := by
  rcases engineTurn_cases s with ⟨_, h⟩ | ⟨_, i, _, h⟩ | ⟨_, e, _, h⟩ <;> exact ⟨_, h⟩

/-- A step leads on, or nothing can move and the run ends in the recorded fault. -/
theorem step_next_or_fault (s : State) :
    (∃ t, step s = .next t) ∨
    (s.schedule = [] ∧ s.phase = .idle ∧ s.nextHost? = none ∧
      ∃ f, s.recordedFault? = some f ∧ step s = .fault f) := by
  cases hsched : s.schedule with
  | cons turn rest =>
    simp only [step, hsched]
    cases turn with
    | host h k => exact .inl ⟨_, rfl⟩
    | engine => exact .inl (engineTurn_isNext _)
    | reset => exact .inl ⟨_, rfl⟩
  | nil =>
    simp only [step, hsched, ownTurn]
    cases hphase : s.phase with
    | busy => exact .inl (engineTurn_isNext s)
    | idle =>
      cases hhost : s.nextHost? with
      | some h => exact .inl ⟨_, rfl⟩
      | none =>
        cases hfault : s.recordedFault? with
        | some f => exact .inr (by simp)
        | none => exact .inl ⟨s, rfl⟩

theorem fault?_eq_some {t : Transaction} {f : Fault} (h : t.fault? = some f) :
    ∃ c, t.reply = .busError c ∧ f = .busError t.host c := by
  unfold Transaction.fault? at h
  cases hr : t.reply with
  | written => simp [hr] at h
  | data v => simp [hr] at h
  | busError c =>
    simp only [hr, Option.some.injEq] at h
    exact ⟨c, rfl, h.symm⟩

theorem recordedFault?_eq_some {s : State} {f : Fault} (h : s.recordedFault? = some f) :
    ∃ t ∈ s.trace, ∃ c, t.reply = .busError c ∧ f = .busError t.host c := by
  obtain ⟨t, hmem, ht⟩ := List.exists_of_findSome?_eq_some h
  exact ⟨t, hmem, fault?_eq_some ht⟩

/-- Settles O54. -/
theorem runEndsOnlyOnARecordedBusError : Obligations.RunEndsOnlyOnARecordedBusError := by
  intro s
  rcases step_next_or_fault s with ⟨t, hstep⟩ | ⟨hsched, hphase, hhost, f, hfault, hstep⟩ <;> rw [hstep]
  · exact ⟨fun _ => by simp, fun _ => by simp⟩
  · refine ⟨fun _ => by simp, fun g hg => ?_⟩
    cases hg
    exact ⟨hsched, hphase, hhost, recordedFault?_eq_some hfault⟩

/-! ### Program order (20_memory.md R72) -/

/-- What a step does to the programs and to the record where HOST_ORDER is true (log 7, log 8, log 14). -/
inductive ProgramEvent (s t : State) : Prop where
  /-- Nothing: the engine's turn, a reset, or a host's turn that performs nothing. -/
  | none (hprograms : t.programs = s.programs) (htrace : t.trace = s.trace)
  /-- A host's oldest item goes without a record; it is no access of the aperture. -/
  | silent (h : Nat) (item : HostItem) (rest : List HostItem) (hp : s.programs[h]? = some (item :: rest))
      (hno : ∀ a, item = .access a → s.cfg.offset? a.addr = .none)
      (hprograms : t.programs = s.programs.set h rest) (htrace : t.trace = s.trace)
  /-- The access of a host's oldest item is recorded, and `q` is left of the host's program. -/
  | served (h : Nat) (item : HostItem) (rest q : List HostItem) (a : Access) (rep : Reply)
      (hp : s.programs[h]? = some (item :: rest))
      (hitem : item = .access a ∨ (item = .wait ∧ a = statusRead s.cfg))
      (hq : q = item :: rest ∨ q = rest ∨ (q = [] ∧ ∃ c, rep = .busError c))
      (hprograms : t.programs = s.programs.set h q) (htrace : t.trace = ⟨h, a, rep⟩ :: s.trace)

/-- The read of STATUS that `wait` repeats is an access of the aperture. -/
theorem offset?_statusRead (c : Config) : c.offset? (statusRead c).addr = some Reg.status.offset := by
  simp [Config.offset?, statusRead, Reg.offset, apertureBytes]

theorem isBusError_iff {r : Reply} : r.isBusError = true ↔ ∃ c, r = .busError c := by
  cases r <;> simp [Reply.isBusError]

/-- Serving an access of the aperture puts it on the record and leaves the programs. -/
theorem serve_inside_effect {s : State} {h off : Nat} {a : Access} (ho : s.cfg.offset? a.addr = some off) :
    ∃ rep, (s.serve h a).2 = some rep ∧ (s.serve h a).1.programs = s.programs ∧
      (s.serve h a).1.trace = ⟨h, a, rep⟩ :: s.trace := by
  obtain ⟨_, hprograms, _, _⟩ := hostAccess_frame s off a.op
  rw [serve_inside h ho]
  exact ⟨_, rfl, hprograms, rfl⟩

theorem performItem_oldest_event {s : State} {h : Nat} {item : HostItem} {rest : List HostItem}
    (hp : s.programs[h]? = some (item :: rest)) :
    ProgramEvent s (s.performItem h 0 (item :: rest) item) := by
  cases item with
  | access a =>
    cases ho : s.cfg.offset? a.addr with
    | none =>
      refine .silent h (.access a) rest hp (fun b hb => ?_) ?_ ?_
      · cases hb
        exact ho
      · simp [State.performItem, serve_outside h ho]
      · simp [State.performItem, serve_outside h ho]
    | some off =>
      obtain ⟨rep, hrep, hprograms, htrace⟩ := serve_inside_effect (h := h) ho
      by_cases herr : rep.isBusError = true
      · have hcause : ∃ c, rep = .busError c := isBusError_iff.1 herr
        refine .served h (.access a) rest [] a rep hp (.inl rfl) (.inr (.inr ⟨rfl, hcause⟩)) ?_ ?_ <;>
          simp [State.performItem, hrep, herr, hprograms, htrace]
      · refine .served h (.access a) rest rest a rep hp (.inl rfl) (.inr (.inl rfl)) ?_ ?_ <;>
          simp [State.performItem, hrep, herr, hprograms, htrace]
  | wait =>
    obtain ⟨rep, hrep, hprograms, htrace⟩ := serve_inside_effect (h := h) (offset?_statusRead s.cfg)
    have hself : s.programs.set h (.wait :: rest) = s.programs := by
      obtain ⟨hlt, hget⟩ := List.getElem?_eq_some_iff.1 hp
      rw [← hget, List.set_getElem_self]
    by_cases hbusy : rep.showsBusy = true
    · refine .served h .wait rest (.wait :: rest) _ rep hp (.inr ⟨rfl, rfl⟩) (.inl rfl) ?_ ?_ <;>
        simp [State.performItem, hrep, hbusy, hprograms, htrace, hself]
    · refine .served h .wait rest rest _ rep hp (.inr ⟨rfl, rfl⟩) (.inr (.inl rfl)) ?_ ?_ <;>
        simp [State.performItem, hrep, hbusy, hprograms, htrace]
  | waitIrq =>
    by_cases hirq : s.irq = true
    · refine .silent h .waitIrq rest hp (fun _ hb => by cases hb) ?_ ?_ <;> simp [State.performItem, hirq]
    · refine .none ?_ ?_ <;> simp [State.performItem, hirq]
  | barrier => exact .silent h .barrier rest hp (fun _ hb => by cases hb) rfl rfl

/-- With HOST_ORDER true only the oldest item of a program may be next. -/
theorem deliverable_hostOrder {p : List HostItem} {k : Nat} : deliverable true p k = true ↔ k = 0 := by
  simp [deliverable]

theorem hostTurn_event {s : State} (hord : s.cfg.hostOrder = true) (h k : Nat) : ProgramEvent s (s.hostTurn h k) := by
  rcases hostTurn_cases s h k with hturn | ⟨p, item, hp, hitem, hdel, hturn⟩ <;> rw [hturn]
  · exact .none rfl rfl
  · rw [hord, deliverable_hostOrder] at hdel
    subst hdel
    obtain ⟨rest, rfl⟩ : ∃ rest, p = item :: rest := by
      cases p with
      | nil => simp at hitem
      | cons first rest => exact ⟨rest, by simpa using hitem⟩
    exact performItem_oldest_event hp

theorem engineTurn_frame {s t : State} (hturn : engineTurn s = .next t) :
    t.programs = s.programs ∧ t.trace = s.trace := by
  rcases engineTurn_cases s with ⟨_, h⟩ | ⟨_, i, _, h⟩ | ⟨_, e, _, h⟩ <;> rw [h] at hturn <;> cases hturn <;>
    simp [complete_frame]

/-- The turns still to come have no part in an event. -/
theorem ProgramEvent.of_schedule {s t : State} {turns : List Turn}
    (event : ProgramEvent { s with schedule := turns } t) : ProgramEvent s t := by
  cases event with
  | none hprograms htrace => exact .none hprograms htrace
  | silent h item rest hp hno hprograms htrace => exact .silent h item rest hp hno hprograms htrace
  | served h item rest q a rep hp hitem hq hprograms htrace =>
    exact .served h item rest q a rep hp hitem hq hprograms htrace

/-- Every step is one of the three events. -/
theorem step_event {s t : State} (hord : s.cfg.hostOrder = true) (hstep : step s = .next t) : ProgramEvent s t := by
  obtain ⟨s₀, rfl, hmove⟩ := step_cases hstep
  rcases hmove with ⟨h, k, hturn⟩ | hturn | hreset | hstay
  · rw [hturn]
    exact (hostTurn_event (s := { s with schedule := s.schedule.tail }) hord h k).of_schedule
  · obtain ⟨hprograms, htrace⟩ := engineTurn_frame hturn
    exact .none hprograms htrace
  · subst hreset
    exact .none rfl rfl
  · subst hstay
    exact .none rfl rfl

theorem ProgramEvent.trace_cases {s t : State} (event : ProgramEvent s t) :
    t.trace = s.trace ∨ ∃ x, t.trace = x :: s.trace := by
  cases event with
  | none _ htrace => exact .inl htrace
  | silent _ _ _ _ _ _ htrace => exact .inl htrace
  | served _ _ _ _ _ _ _ _ _ _ htrace => exact .inr ⟨_, htrace⟩

/-- A recorded access is that of its host's oldest item. -/
theorem ProgramEvent.record {s t : State} (event : ProgramEvent s t) {x : Transaction} {p : List HostItem}
    (hx : t.trace = x :: s.trace) (hp : s.programs[x.host]? = some p) :
    p.head? = some (.access x.access) ∨ (p.head? = some .wait ∧ x.access = statusRead s.cfg) := by
  cases event with
  | none _ htrace => simp [htrace] at hx
  | silent _ _ _ _ _ _ htrace => simp [htrace] at hx
  | served h item rest q a rep hp' hitem _ _ htrace =>
    rw [htrace, List.cons.injEq] at hx
    obtain ⟨rfl, _⟩ := hx
    cases hp'.symm.trans hp
    simpa using hitem

/-- What R72 allows of the program `p` of host `h` in one step (log 7, log 8): it stays, loses its oldest item, or ends
with the record of a BusError; and an access of the aperture goes only with its record. -/
def ProgramKept (s t : State) (h : Nat) (p : List HostItem) : Prop :=
  ∃ q, t.programs[h]? = some q ∧
    (q = p ∨ q = p.tail ∨ (q = [] ∧ ∃ x c, t.trace = x :: s.trace ∧ x.host = h ∧ x.reply = .busError c)) ∧
    ∀ a off, p.head? = some (.access a) → s.cfg.offset? a.addr = some off → q ≠ p →
      ∃ rep, t.trace = ⟨h, a, rep⟩ :: s.trace

theorem programKept_of_stays {s t : State} {h : Nat} {p : List HostItem} (hp : t.programs[h]? = some p) :
    ProgramKept s t h p :=
  ⟨p, hp, .inl rfl, fun _ _ _ _ hne => absurd rfl hne⟩

/-- An event moves one host's program as R72 allows, and every other host's program stays. -/
theorem ProgramEvent.programKept {s t : State} (event : ProgramEvent s t) {h : Nat} {p : List HostItem}
    (hp : s.programs[h]? = some p) : ProgramKept s t h p := by
  have hlt : h < s.programs.length := (List.getElem?_eq_some_iff.1 hp).1
  cases event with
  | none hprograms _ => exact programKept_of_stays (by rw [hprograms, hp])
  | silent h' item rest hp' hno hprograms _ =>
    by_cases hh : h' = h
    · subst hh
      cases hp'.symm.trans hp
      refine ⟨rest, by rw [hprograms, List.getElem?_set_self hlt], .inr (.inl rfl), fun a off ha hoff _ => ?_⟩
      simp [hno a (by simpa using ha)] at hoff
    · exact programKept_of_stays (by rw [hprograms, List.getElem?_set_ne hh, hp])
  | served h' item rest q a rep hp' hitem hq hprograms htrace =>
    by_cases hh : h' = h
    · subst hh
      cases hp'.symm.trans hp
      refine ⟨q, by rw [hprograms, List.getElem?_set_self hlt], ?_, fun b off hb _ _ => ⟨rep, ?_⟩⟩
      · rcases hq with hq | hq | ⟨hq, c, hc⟩
        · exact .inl hq
        · exact .inr (.inl hq)
        · exact .inr (.inr ⟨hq, _, c, htrace, rfl, hc⟩)
      · simp only [List.head?_cons, Option.some.injEq] at hb
        rcases hitem with hitem | ⟨hitem, _⟩ <;> cases hb.symm.trans hitem
        exact htrace
    · exact programKept_of_stays (by rw [hprograms, List.getElem?_set_ne hh, hp])

/-- Settles O50. -/
theorem hostOrderKeepsProgramOrder : Obligations.HostOrderKeepsProgramOrder := by
  intro s t h p hord hstep hp
  have event : ProgramEvent s t := step_event hord hstep
  refine ⟨event.trace_cases, fun x hx hxh => ?_, event.programKept hp⟩
  subst hxh
  exact event.record hx hp

end Sys2Proof.Machine

/-! # Commands and their words (30_encoding.md)

The statements about the decoder rest on `decode_eq_ok_iff`: RSV and OPC are all of a word (`word_ext`), and each branch of
`decode` fixes both. The statement that a command ignores the registers it does not name rests on `runOf_congr`: its outcome
is a function of BUF and of the registers of R94. -/

namespace Sys2Proof.Machine

/-! ### Decode and encode (R90 to R92) -/

/-- A word has no bits besides RSV and OPC (R90). -/
theorem word_ext {v w : Word} (hrsv : rsvField v = rsvField w) (hopc : opcField v = opcField w) : v = w := by
  have hhigh := congrArg BitVec.toNat hrsv
  have hlow := congrArg BitVec.toNat hopc
  simp only [rsvField, opcField, BitVec.extractLsb'_toNat, Nat.shiftRight_eq_div_pow] at hhigh hlow
  apply BitVec.eq_of_toNat_eq
  omega

theorem decode_encode (i : Instr) : decode (encode i) = .ok i := by
  cases i <;> rfl

/-- A word that decodes to a command has the fields of that command's word: each branch of `decode` tests both. -/
theorem fields_of_decode_eq_ok {w : Word} {i : Instr} (h : decode w = .ok i) :
    rsvField w = rsvField (encode i) ∧ opcField w = opcField (encode i) := by
  unfold decode at h
  split at h
  · cases h
  · rename_i hrsv
    rw [ne_eq, not_not] at hrsv
    iterate 8
      split at h
      · rename_i hopc
        cases h
        exact ⟨hrsv, hopc⟩
    cases h

theorem decode_eq_ok_iff (w : Word) (i : Instr) : decode w = .ok i ↔ w = encode i := by
  constructor
  · intro h
    obtain ⟨hrsv, hopc⟩ := fields_of_decode_eq_ok h
    exact word_ext hrsv hopc
  · rintro rfl
    exact decode_encode i

/-- Settles O2. -/
theorem decodeAndEncodeAgree : Obligations.DecodeAndEncodeAgree := fun w i _ => decode_eq_ok_iff w i

/-- Settles O1: the table's word of each command is its encoding. -/
theorem opcodeMapIsExact : Obligations.OpcodeMapIsExact := by
  intro w i
  rw [decode_eq_ok_iff]
  cases i <;> exact Iff.rfl

theorem decodeTableWord_encode (i : Instr) : decodeTableWord 32 (encode i).toNat = some i := by
  have hword : BitVec.ofNat 32 ((encode i).toNat % 2 ^ 32) = encode i := by
    rw [Nat.mod_eq_of_lt (encode i).isLt, BitVec.ofNat_toNat, BitVec.setWidth_eq]
  rw [decodeTableWord, hword, decode_encode]

/-- Settles O3. -/
theorem tableWordsDecode : Obligations.TableWordsDecode :=
  ⟨decodeTableWord_encode .nop, decodeTableWord_encode .crc32, decodeTableWord_encode .feistelInv,
    decodeTableWord_encode .radixDcount, by decide, by decide⟩

/-! ### Illegal words (R93) -/

/-- The words that R93 lists as illegal, by RSV, UNIT and FN. -/
def IllegalFields (w : Word) : Prop :=
  w.extractLsb' 8 24 ≠ 0 ∨
    4 ≤ (w.extractLsb' 4 4).toNat ∨
    ((w.extractLsb' 4 4).toNat ≤ 1 ∧ 1 ≤ (w.extractLsb' 0 4).toNat) ∨
    (2 ≤ (w.extractLsb' 4 4).toNat ∧ 3 ≤ (w.extractLsb' 0 4).toNat)

theorem not_illegalFields_encode (i : Instr) : ¬ IllegalFields (encode i) := by
  unfold IllegalFields
  cases i <;> decide

/-- Settles O4: a word with illegal fields is no command's, so the engine's turn is the completion of an illegal word. -/
theorem illegalWordsCompleteWithIllegalCmd : Obligations.IllegalWordsCompleteWithIllegalCmd := by
  intro s hbusy hillegal
  rcases engineTurn_cases s with ⟨hidle, _⟩ | ⟨_, i, hdecode, _⟩ | ⟨_, e, _, hturn⟩
  · simp [hbusy] at hidle
  · rw [decode_eq_ok_iff] at hdecode
    exact absurd (hdecode ▸ hillegal) (not_illegalFields_encode i)
  · exact hturn

/-! ### The registers that a command reads (R94) -/

/-- `s'` is a state of the block of `s` with the same BUF, and with the same values in the registers `rs`. -/
structure State.AgreesOn (rs : List Reg) (s s' : State) : Prop where
  cfg : s'.cfg = s.cfg
  buf : ∀ a, s'.bufByte a = s.bufByte a
  reg : ∀ r ∈ rs, s'.readReg r = s.readReg r

section
variable {s s' : State}

theorem firstError_congr {cs : List Check} (h : ∀ c ∈ cs, c s' = c s) : firstError cs s' = firstError cs s := by
  induction cs with
  | nil => rfl
  | cons c cs ih =>
    rw [List.forall_mem_cons] at h
    rw [firstError_cons, firstError_cons, h.1, ih h.2]

theorem runChecked_congr {cs : List Check} {rule : State → RunOutcome} (hchecks : ∀ c ∈ cs, c s' = c s)
    (hrule : rule s' = rule s) : runChecked cs rule s' = runChecked cs rule s := by
  simp only [runChecked, firstError_congr hchecks, hrule]

theorem readRegion_congr (hbuf : ∀ a, s'.bufByte a = s.bufByte a) (r : Region) :
    s'.readRegion r = s.readRegion r :=
  memRead_congr hbuf r.addr r.size

theorem readDigits_congr (hbuf : ∀ a, s'.bufByte a = s.bufByte a) (a m : Nat) :
    s'.readDigits a m = s.readDigits a m := by
  simp only [State.readDigits, State.memRead16, hbuf]

theorem checkBase_congr (hbase : s'.base = s.base) : checkBase s' = checkBase s := by
  simp only [checkBase, hbase]

theorem checkSrc_congr {region : State → Region} (hcfg : s'.cfg = s.cfg) (hregion : region s' = region s) :
    checkSrc region s' = checkSrc region s := by
  simp only [checkSrc, hcfg, hregion]

theorem checkDst_congr {region : State → Region} (hcfg : s'.cfg = s.cfg) (hregion : region s' = region s) :
    checkDst region s' = checkDst region s := by
  simp only [checkDst, hcfg, hregion]

/-- The outcome of CRC32 is a function of SRC, LEN and BUF. -/
theorem runOf_crc32_congr (h : s.AgreesOn Instr.crc32.registersRead s') : runOf .crc32 s' = runOf .crc32 s := by
  have hsrc : s'.src = s.src := h.reg .src (by decide)
  have hlen : s'.len = s.len := h.reg .len (by decide)
  have hregion : s'.srcBytes = s.srcBytes := by simp only [State.srcBytes, hsrc, hlen]
  apply runChecked_congr
  · simpa only [crc32Checks, List.forall_mem_singleton] using checkSrc_congr h.cfg hregion
  · simp only [crc32Rule, hregion, readRegion_congr h.buf]

/-- The outcome of a keyed command, which makes `f` of the source bytes, the key bytes and ROUNDS, is a function of SRC,
DST, LEN, KADDR, KLEN, ROUNDS and BUF. -/
theorem runChecked_keyed_congr {cs : List Check} {rule : State → RunOutcome}
    (f : List Byte → List Byte → Word → List Byte) (hcs : cs ⊆ feistelChecks)
    (hrule : ∀ u, rule u = keyedResult u (f (u.readRegion u.srcBytes) (u.readRegion u.keyRegion) u.rounds))
    (h : s.AgreesOn [.src, .dst, .len, .kaddr, .klen, .rounds] s') :
    runChecked cs rule s' = runChecked cs rule s := by
  have hsrc : s'.src = s.src := h.reg .src (by decide)
  have hdst : s'.dst = s.dst := h.reg .dst (by decide)
  have hlen : s'.len = s.len := h.reg .len (by decide)
  have hkaddr : s'.kaddr = s.kaddr := h.reg .kaddr (by decide)
  have hklen : s'.klen = s.klen := h.reg .klen (by decide)
  have hrounds : s'.rounds = s.rounds := h.reg .rounds (by decide)
  have hsource : s'.srcBytes = s.srcBytes := by simp only [State.srcBytes, hsrc, hlen]
  have hdest : s'.dstBytes = s.dstBytes := by simp only [State.dstBytes, hdst, hlen]
  have hkey : s'.keyRegion = s.keyRegion := by simp only [State.keyRegion, hkaddr, hklen]
  have hchecks : ∀ c ∈ feistelChecks, c s' = c s := by
    simp only [feistelChecks, keyedChecks, List.forall_mem_cons]
    refine ⟨?_, ?_, checkSrc_congr h.cfg hsource, checkDst_congr h.cfg hdest, ?_, by simp⟩
    · simp only [checkRounds, hrounds]
    · simp only [checkKeyLen, hklen]
    · simp only [checkKey, h.cfg, hkey]
  refine runChecked_congr (fun c hc => hchecks c (hcs hc)) ?_
  simp only [hrule, keyedResult, hdst, hlen, hrounds, hsource, hkey, readRegion_congr h.buf]

/-- The outcome of RADIX_B2D is a function of SRC, DST, LEN, BASE and BUF. -/
theorem runOf_radixB2d_congr (h : s.AgreesOn Instr.radixB2d.registersRead s') :
    runOf .radixB2d s' = runOf .radixB2d s := by
  have hsrc : s'.src = s.src := h.reg .src (by decide)
  have hdst : s'.dst = s.dst := h.reg .dst (by decide)
  have hlen : s'.len = s.len := h.reg .len (by decide)
  have hbase : s'.base = s.base := h.reg .base (by decide)
  have htotal : s'.digitTotal = s.digitTotal := by simp only [State.digitTotal, hlen, hbase]
  have hsource : s'.srcBytes = s.srcBytes := by simp only [State.srcBytes, hsrc, hlen]
  have hdest : s'.dstDigits = s.dstDigits := by simp only [State.dstDigits, hdst, htotal]
  apply runChecked_congr
  · simp only [radixB2dChecks, List.forall_mem_cons]
    exact ⟨checkBase_congr hbase, checkSrc_congr h.cfg hsource, checkDst_congr h.cfg hdest, by simp⟩
  · simp only [radixB2dRule, hdst, hbase, htotal, hsource, readRegion_congr h.buf]

/-- The outcome of RADIX_D2B is a function of SRC, DST, LEN, XLEN, BASE and BUF. -/
theorem runOf_radixD2b_congr (h : s.AgreesOn Instr.radixD2b.registersRead s') :
    runOf .radixD2b s' = runOf .radixD2b s := by
  have hsrc : s'.src = s.src := h.reg .src (by decide)
  have hdst : s'.dst = s.dst := h.reg .dst (by decide)
  have hlen : s'.len = s.len := h.reg .len (by decide)
  have hxlen : s'.xlen = s.xlen := h.reg .xlen (by decide)
  have hbase : s'.base = s.base := h.reg .base (by decide)
  have hsource : s'.srcDigits = s.srcDigits := by simp only [State.srcDigits, hsrc, hxlen]
  have hdest : s'.dstBytes = s.dstBytes := by simp only [State.dstBytes, hdst, hlen]
  have hdigits : s'.sourceDigits = s.sourceDigits := by
    simp only [State.sourceDigits, hsrc, hxlen, readDigits_congr h.buf]
  apply runChecked_congr
  · simp only [radixD2bChecks, List.forall_mem_cons]
    refine ⟨checkBase_congr hbase, checkSrc_congr h.cfg hsource, checkDst_congr h.cfg hdest, ?_, ?_, by simp⟩
    · simp only [checkDigits, hdigits, hbase]
    · simp only [checkOverflow, hdigits, hbase, hlen]
  · simp only [radixD2bRule, hdst, hbase, hlen, hdigits]

/-- The outcome of RADIX_DCOUNT is a function of LEN and BASE. -/
theorem runOf_radixDcount_congr (h : s.AgreesOn Instr.radixDcount.registersRead s') :
    runOf .radixDcount s' = runOf .radixDcount s := by
  have hlen : s'.len = s.len := h.reg .len (by decide)
  have hbase : s'.base = s.base := h.reg .base (by decide)
  apply runChecked_congr
  · simp only [radixDcountChecks, List.forall_mem_cons]
    refine ⟨checkBase_congr hbase, ?_, by simp⟩
    simp only [checkCountLen, h.cfg, hlen]
  · simp only [radixDcountRule, State.digitTotal, hlen, hbase]

/-- The outcome of a command is a function of BUF and of the registers that it reads. -/
theorem runOf_congr {i : Instr} (h : s.AgreesOn i.registersRead s') : runOf i s' = runOf i s := by
  cases i with
  | nop => rfl
  | crc32 => exact runOf_crc32_congr h
  | feistelFwd =>
    exact runChecked_keyed_congr (fun m k r => feistelFwd m k r.toNat) (List.Subset.refl _) (fun _ => rfl) h
  | feistelInv =>
    exact runChecked_keyed_congr (fun m k r => feistelInv m k r.toNat) (List.Subset.refl _) (fun _ => rfl) h
  | prf => exact runChecked_keyed_congr prf (List.subset_cons_self _ _) (fun _ => rfl) h
  | radixB2d => exact runOf_radixB2d_congr h
  | radixD2b => exact runOf_radixD2b_congr h
  | radixDcount => exact runOf_radixDcount_congr h

/-! ### What a completion leaves, as a function of the outcome -/

theorem complete_errcode_congr (s s' : State) (r : RunOutcome) :
    (s'.complete r).errcode = (s.complete r).errcode := by
  cases r <;> simp

theorem bufByte_applyWrites_congr (hbuf : ∀ a, s'.bufByte a = s.bufByte a) (ws : List MemWrite) (a : Nat) :
    (s'.applyWrites ws).bufByte a = (s.applyWrites ws).bufByte a := by
  induction ws generalizing s s' with
  | nil => exact hbuf a
  | cons w ws ih =>
    refine ih fun x => ?_
    rw [bufByte_storeBytes, bufByte_storeBytes, hbuf]

theorem bufByte_complete_congr (hbuf : ∀ a, s'.bufByte a = s.bufByte a) (r : RunOutcome) (a : Nat) :
    (s'.complete r).bufByte a = (s.complete r).bufByte a := by
  cases r with
  | ok ws res => exact bufByte_applyWrites_congr hbuf ws a
  | err e => exact hbuf a

/-- The outcome, if it is a success, has a value for RESULT. -/
def RunOutcome.GivesResult : RunOutcome → Prop
  | .ok _ res => res.isSome = true
  | .err _ => True

theorem givesResult_runChecked {cs : List Check} {rule : State → RunOutcome} (h : (rule s).GivesResult) :
    (runChecked cs rule s).GivesResult := by
  rcases runChecked_cases cs rule s with ⟨e, _, hrun⟩ | ⟨_, hrun⟩ <;> rw [hrun]
  · trivial
  · exact h

/-- Every command but NOP gives a result (40_control.md R128). -/
theorem givesResult_runOf {i : Instr} (hne : i ≠ .nop) (s : State) : (runOf i s).GivesResult := by
  cases i with
  | nop => exact absurd rfl hne
  | crc32 => exact givesResult_runChecked rfl
  | feistelFwd => exact givesResult_runChecked rfl
  | feistelInv => exact givesResult_runChecked rfl
  | prf => exact givesResult_runChecked rfl
  | radixB2d => exact givesResult_runChecked rfl
  | radixD2b => exact givesResult_runChecked rfl
  | radixDcount => exact givesResult_runChecked rfl

/-- A success that has a value for RESULT does not look at the old one. -/
theorem complete_result_congr {r : RunOutcome} (hr : r.GivesResult) (hcode : (s.complete r).errcode = 0x00) :
    (s'.complete r).result = (s.complete r).result := by
  cases r with
  | ok ws res =>
    obtain ⟨v, rfl⟩ := Option.isSome_iff_exists.1 hr
    simp
  | err e => exact absurd hcode (code_ne_zero e)

end

/-- Settles O22: both states complete with one outcome, by `runOf_congr`. -/
theorem unnamedRegistersAreIgnored : Obligations.UnnamedRegistersAreIgnored := by
  intro i s s' t t' hcfg hbuf hreg ht ht'
  have hrun : runOf i s' = runOf i s := runOf_congr ⟨hcfg, hbuf, hreg⟩
  rw [exec_eq_complete] at ht ht'
  rw [hrun] at ht'
  cases ht
  cases ht'
  exact ⟨complete_errcode_congr s s' _, bufByte_complete_congr hbuf _,
    fun hne hcode => complete_result_congr (givesResult_runOf hne s) hcode⟩

/-! ### The wait loop and the acknowledge (R98) -/

theorem statusWord_bit_zero (s : State) : s.statusWord.getLsbD 0 = s.busy := by
  apply getLsbD_eq_of_toNat
  have hbusy := s.busy.toNat_le
  rw [statusWord_toNat]
  omega

/-- Serving the read of `wait` records STATUS and changes nothing else. -/
theorem serve_statusRead (s : State) (h : Nat) :
    s.serve h (statusRead s.cfg) =
      ({ s with trace := ⟨h, statusRead s.cfg, .data s.statusWord⟩ :: s.trace }, some (.data s.statusWord)) := by
  have hread : s.hostAccess Reg.status.offset (statusRead s.cfg).op = (s, .data s.statusWord) :=
    hostAccess_readReg s .status
  rw [serve_inside h (offset?_statusRead s.cfg), hread]

/-- Settles O52: the loop ends on bit 0 of STATUS, which is BUSY. -/
theorem waitEndsExactlyWhenIdle : Obligations.WaitEndsExactlyWhenIdle := by
  intro s h rest hp
  have hloop : Reply.showsBusy (.data s.statusWord) = s.busy := statusWord_bit_zero s
  rw [hostTurn_oldest hp]
  simp only [State.performItem, serve_statusRead, Option.any_some, hloop]
  cases s.busy <;> rfl

/-- The acknowledge has the bits of DONE, ERR and DROP set (60_exceptions.md R236). -/
theorem acknowledge_eq (s : State) : s.acknowledge = { s with done := false, err := false, drop := false } := by
  simp [State.acknowledge, State.writeStatus]

/-- Settles O42. -/
theorem acknowledgeClearsTheCompletion : Obligations.AcknowledgeClearsTheCompletion := by
  intro s
  have hwrite : s.hostAccess 0x000C (.wr32 0x0000000E) = (s.acknowledge, .written) :=
    hostAccess_writeReg s .status 0x0000000E
  rw [hwrite]
  refine ⟨by rw [acknowledge_eq], ?_, rfl⟩
  simp [acknowledge_eq, State.irq]

end Sys2Proof.Machine

/-! # The life of a command (40_control.md)

The statements about a completion rest on `engineTurn_busy`: the turn of a busy engine is one completion, with the outcome
`State.flightOutcome`. The order of the checks rests on `reportedCode`, which has one equation per check of R126. That a busy
block completes is an induction over the turns given: up to the engine's turn only hosts move, and they leave the command in
flight. -/

namespace Sys2Proof.Machine

/-! ### The step that runs a command (R120, R124) -/

theorem engineTurn_of_decode {s : State} {i : Instr} (hbusy : s.phase = .busy) (hdecode : decode s.cmd = .ok i) :
    engineTurn s = exec i s := by
  simp only [engineTurn, State.fetch, hbusy, hdecode]

/-- Where no turn is given, a busy engine moves (log 5). -/
theorem step_of_no_turn {s : State} (hbusy : s.phase = .busy) (hsched : s.schedule = []) : step s = engineTurn s := by
  simp only [step, ownTurn, hsched, hbusy]

theorem step_of_turn {s : State} {turn : Turn} {rest : List Turn} (hsched : s.schedule = turn :: rest) :
    step s = takeTurn { s with schedule := rest } turn := by
  simp only [step, hsched]

/-- Settles O5. -/
theorem stepRunsTheDecodedCommand : Obligations.StepRunsTheDecodedCommand := by
  intro s i hbusy _ hdecode
  refine ⟨fun hsched => ?_, fun rest hsched => ?_⟩
  · rw [step_of_no_turn hbusy hsched, engineTurn_of_decode hbusy hdecode]
  · rw [step_of_turn hsched]
    exact engineTurn_of_decode (s := { s with schedule := rest }) hbusy hdecode

theorem decodeTableWord_eq_some {nbits w : Nat} {i : Instr} :
    decodeTableWord nbits w = some i ↔ decode (BitVec.ofNat 32 (w % 2 ^ nbits)) = .ok i := by
  unfold decodeTableWord
  cases decode (BitVec.ofNat 32 (w % 2 ^ nbits)) <;> simp

/-- Settles O6: the placed word stands in CMD of a busy block to which no turn is given. -/
theorem placedWordRunsNext : Obligations.PlacedWordRunsNext := by
  intro s nbits w i hword
  have hbusy : (s.withFetchWord nbits w).phase = .busy := rfl
  rw [step_of_no_turn hbusy rfl]
  exact engineTurn_of_decode hbusy (decodeTableWord_eq_some.1 hword)

/-- Settles O7. -/
theorem acceptIssuesTheCommand : Obligations.AcceptIssuesTheCommand := by
  intro s v hidle
  have hwrite : s.hostAccess 0x0010 (.wr32 v) = (s.accept v, .written) := by
    rw [← writeReg_cmd_idle hidle]
    exact hostAccess_writeReg s .cmd v
  have hlow : (s.accept v).irq = false := Bool.and_false s.ie
  rw [hwrite]
  exact ⟨rfl, hlow, hostAccess_readReg (s.accept v) .cmd⟩

/-! ### Accesses that meet a busy block (R121, R123) -/

theorem writeReg_busy {s : State} {r : Reg} (v : Word) (hbusy : s.busy = true) (hr : r = .cmd ∨ r.isOperand = true) :
    s.writeReg r v = s.setDrop := by
  rcases hr with rfl | hr
  · exact writeReg_cmd_busy hbusy v
  · cases r <;> simp [Reg.isOperand] at hr <;> simp [State.writeReg, hbusy]

theorem writeBuf_busy {s : State} (hbusy : s.busy = true) (a w : Nat) (v : Word) : s.writeBuf a w v = s.setDrop := by
  simp [State.writeBuf, hbusy]

theorem readBuf_busy {s : State} (hbusy : s.busy = true) (a w : Nat) :
    s.readBuf a w = ({ s with draws := s.draws + w }, BitVec.ofNat 32 (numLe (s.freeBytes w))) := by
  simp [State.readBuf, hbusy]

/-- Settles O8: on the bus all these writes are accepted, but the block takes none of them. -/
theorem writesWhileBusyAreDropped : Obligations.WritesWhileBusyAreDropped := by
  intro s
  refine ⟨fun hbusy => ⟨fun r v hr => ?_, fun a op hwrite halign hin => ?_⟩, fun _ _ _ => hostAccess_refused,
    fun r v hr => ?_⟩
  · rw [hostAccess_writeReg, writeReg_busy v hbusy hr]
    rfl
  · obtain ⟨v, hv⟩ := Option.ne_none_iff_exists'.1 hwrite
    rw [hostAccess_writeBuf hv halign hin, writeBuf_busy hbusy]
    rfl
  · rw [hostAccess_writeReg]
    rcases hr with rfl | rfl | rfl <;> rfl

@[simp] theorem length_freeBytes (s : State) (n : Nat) : (s.freeBytes n).length = n := by
  simp [State.freeBytes]

theorem freeBytes_getD (s : State) {n k : Nat} (h : k < n) :
    (s.freeBytes n).getD k 0 = Config.busyByte (s.draws + k) := by
  simp [State.freeBytes, h]

/-- Settles O47. -/
theorem bufReadWhileBusyIsFree : Obligations.BufReadWhileBusyIsFree := by
  intro s a op hbusy hread halign hin
  have hlen : (s.freeBytes op.width).length ≤ 4 := (length_freeBytes s op.width).trans_le (width_le_four op)
  refine ⟨BitVec.ofNat 32 (numLe (s.freeBytes op.width)), ?_, fun k hk => ?_⟩
  · rw [hostAccess_readBuf hread halign hin, readBuf_busy hbusy]
  · rw [numLe_word_byte hlen, freeBytes_getD s hk]

/-! ### Completion (R124) -/

/-- The outcome of the command in flight, an illegal word's included (30_encoding.md R92, R93). -/
def State.flightOutcome (s : State) : RunOutcome :=
  match decode s.cmd with
  | .ok i => runOf i s
  | .error _ => .err .illegalCmd

/-- The turn of a busy engine is one completion. -/
theorem engineTurn_busy {s : State} (hbusy : s.phase = .busy) :
    engineTurn s = .next (s.complete s.flightOutcome) := by
  rcases engineTurn_cases s with ⟨hidle, _⟩ | ⟨_, i, hdecode, hturn⟩ | ⟨_, e, hdecode, hturn⟩
  · simp [hbusy] at hidle
  · rw [hturn, State.flightOutcome, hdecode]
  · rw [hturn, State.flightOutcome, hdecode]
    rfl

/-- Settles O10. -/
theorem completionSetsStatusAndKeepsOperands : Obligations.CompletionSetsStatusAndKeepsOperands := by
  intro s hbusy
  obtain ⟨hidle, hphase, hdone, herr⟩ := complete_flags s s.flightOutcome
  obtain ⟨hcmd, hsrc, hdst, hlen, hxlen, hkaddr, hklen, hbase, hrounds, hie, hdrop, hcfg, _⟩ :=
    complete_frame s s.flightOutcome
  have hirq : (s.complete s.flightOutcome).irq = s.ie := by rw [State.irq, hie, hdone, Bool.and_true]
  exact ⟨_, engineTurn_busy hbusy, hidle, hphase, hdone, by rw [herr, bne_iff_ne], hdrop, hie, hcmd, hsrc, hdst, hlen,
    hxlen, hkaddr, hklen, hbase, hrounds, hcfg, hirq⟩

/-- Settles O14: NOP has no write and no result, so its completion is the STATUS update alone. -/
theorem nopChangesOnlyStatus : Obligations.NopChangesOnlyStatus := by
  intro s
  exact exec_eq_complete .nop s

/-! ### The first check that fails (R126) -/

/-- The checks of each command, in their order. -/
def checksOf : Instr → List Check
  | .nop => []
  | .crc32 => crc32Checks
  | .feistelFwd => feistelChecks
  | .feistelInv => feistelChecks
  | .prf => keyedChecks
  | .radixB2d => radixB2dChecks
  | .radixD2b => radixD2bChecks
  | .radixDcount => radixDcountChecks

/-- The code of the first of the checks that fails; 0x00 if none does. -/
def reportedCode (cs : List Check) (s : State) : BitVec 8 := ((firstError cs s).map ErrorCode.code).getD 0x00

/-- A rule that only succeeds leaves the error code to the checks. -/
theorem complete_runChecked_errcode {cs : List Check} {rule : State → RunOutcome} {s : State} {ws : List MemWrite}
    {res : Option Word} (hrule : rule s = .ok ws res) :
    (s.complete (runChecked cs rule s)).errcode = reportedCode cs s := by
  rcases runChecked_cases cs rule s with ⟨e, hfail, hrun⟩ | ⟨hpass, hrun⟩
  · rw [hrun, reportedCode, hfail]
    rfl
  · rw [hrun, hrule, reportedCode, hpass]
    rfl

theorem complete_runOf_errcode (i : Instr) (s : State) :
    (s.complete (runOf i s)).errcode = reportedCode (checksOf i) s := by
  cases i with
  | nop => rfl
  | crc32 => exact complete_runChecked_errcode rfl
  | feistelFwd => exact complete_runChecked_errcode rfl
  | feistelInv => exact complete_runChecked_errcode rfl
  | prf => exact complete_runChecked_errcode rfl
  | radixB2d => exact complete_runChecked_errcode rfl
  | radixD2b => exact complete_runChecked_errcode rfl
  | radixDcount => exact complete_runChecked_errcode rfl

section
variable (cs : List Check) (s : State)

@[simp] theorem reportedCode_nil : reportedCode [] s = 0x00 := rfl

/-- A check that fails is reported; behind one that passes, the later checks decide. -/
theorem reportedCode_cons {c : Check} {ok fails : Prop} [Decidable ok] [Decidable fails] {e : ErrorCode}
    (hc : c s = if ok then none else some e) (hfails : fails ↔ ¬ ok) :
    reportedCode (c :: cs) s = if fails then e.code else reportedCode cs s := by
  unfold reportedCode
  rw [firstError_cons, hc]
  by_cases hok : ok <;> simp [hok, hfails]

@[simp] theorem reportedCode_checkBase :
    reportedCode (checkBase :: cs) s =
      if ¬ (2 ≤ s.base.toNat ∧ s.base.toNat ≤ 65536) then 0x02 else reportedCode cs s :=
  reportedCode_cons cs s (checkBase_eq s) Iff.rfl

@[simp] theorem reportedCode_checkRounds :
    reportedCode (checkRounds :: cs) s = if s.rounds = 0 then 0x03 else reportedCode cs s :=
  reportedCode_cons cs s ((checkRounds_eq s).trans (ite_not _ _ _).symm) not_not.symm

@[simp] theorem reportedCode_checkKeyLen :
    reportedCode (checkKeyLen :: cs) s =
      if ¬ (1 ≤ s.klen.toNat ∧ s.klen.toNat ≤ 64) then 0x04 else reportedCode cs s :=
  reportedCode_cons cs s (checkKeyLen_eq s) Iff.rfl

@[simp] theorem reportedCode_checkSrc (region : State → Region) :
    reportedCode (checkSrc region :: cs) s =
      if s.cfg.bufBytes < (region s).addr + (region s).size then 0x05 else reportedCode cs s :=
  reportedCode_cons cs s (checkSrc_eq region s) Nat.not_le.symm

@[simp] theorem reportedCode_checkCountLen :
    reportedCode (checkCountLen :: cs) s = if s.cfg.bufBytes < s.len.toNat then 0x05 else reportedCode cs s :=
  reportedCode_cons cs s (checkCountLen_eq s) Nat.not_le.symm

@[simp] theorem reportedCode_checkDst (region : State → Region) :
    reportedCode (checkDst region :: cs) s =
      if s.cfg.bufBytes < (region s).addr + (region s).size then 0x06 else reportedCode cs s :=
  reportedCode_cons cs s (checkDst_eq region s) Nat.not_le.symm

@[simp] theorem reportedCode_checkKey :
    reportedCode (checkKey :: cs) s =
      if s.cfg.bufBytes < s.kaddr.toNat + s.klen.toNat then 0x07 else reportedCode cs s :=
  reportedCode_cons cs s (checkKey_eq s) Nat.not_le.symm

@[simp] theorem reportedCode_checkDigits :
    reportedCode (checkDigits :: cs) s =
      if ∃ j < s.xlen.toNat, s.base.toNat ≤ s.memRead16 (s.src.toNat + 2 * j) then 0x08 else reportedCode cs s :=
  reportedCode_cons cs s (checkDigits_eq s) (by simp)

@[simp] theorem reportedCode_checkOverflow :
    reportedCode (checkOverflow :: cs) s =
      if 256 ^ s.len.toNat ≤ numBase s.base.toNat (s.readDigits s.src.toNat s.xlen.toNat) then 0x09
      else reportedCode cs s :=
  reportedCode_cons cs s (checkOverflow_eq s) Nat.not_lt.symm

end

/-- R126's chain of tests is, for each command, the list of that command's checks: the tests that name other commands fall
away, and the regions of R94 are those of the checks. -/
theorem firstFailure_ok (i : Instr) (s : State) : firstFailure (.ok i) s = reportedCode (checksOf i) s := by
  cases i with
  | nop => simp [firstFailure, checksOf, sourceRegion?, destinationRegion?, keyRegion?]
  | crc32 =>
    simp [firstFailure, checksOf, sourceRegion?, destinationRegion?, keyRegion?, crc32Checks]
    rfl
  | feistelFwd | feistelInv | prf =>
    simp [firstFailure, checksOf, sourceRegion?, destinationRegion?, keyRegion?, feistelChecks, keyedChecks]
    rfl
  | radixB2d =>
    simp [firstFailure, checksOf, sourceRegion?, destinationRegion?, keyRegion?, radixB2dChecks]
    rfl
  | radixD2b =>
    simp [firstFailure, checksOf, sourceRegion?, destinationRegion?, keyRegion?, radixD2bChecks]
    rfl
  | radixDcount => simp [firstFailure, checksOf, sourceRegion?, destinationRegion?, keyRegion?, radixDcountChecks]

/-- Settles O12: the code that the completion leaves is that of the command's first failing check. -/
theorem firstFailedCheckIsReported : Obligations.FirstFailedCheckIsReported := by
  intro s hbusy
  refine ⟨_, engineTurn_busy hbusy, ?_⟩
  unfold State.flightOutcome
  cases decode s.cmd with
  | ok i => rw [complete_runOf_errcode, firstFailure_ok]
  | error e => rfl

/-! ### A busy block completes (R129; log 5, log 6) -/

/-- Only an accept, a completion or a reset moves the engine between Idle and Busy, and a busy block accepts nothing. -/
theorem hostAccess_phase_busy {s : State} (hbusy : s.busy = true) (off : Nat) (op : BusOp) :
    (s.hostAccess off op).1.phase = s.phase := by
  rcases hostAccess_cases s off op with h | ⟨r, v, h⟩ | ⟨_, h⟩ | ⟨_, h⟩ | ⟨hidle, _⟩
  case inr.inr.inr.inr => simp [hbusy] at hidle
  case inr.inl =>
    rw [h]
    rcases writeReg_cases s r v with h | h | h | ⟨_, h⟩ | ⟨hidle, _⟩
    case inr.inr.inr.inr => simp [hbusy] at hidle
    all_goals simp [h]
  all_goals simp [h]

theorem hostTurn_phase_busy {s : State} (hbusy : s.busy = true) (h k : Nat) : (s.hostTurn h k).phase = s.phase :=
  (hostTurn_relates (fun a b => a.busy = true → b.busy = true ∧ b.phase = a.phase) (fun _ hb => ⟨hb, rfl⟩)
    (fun _ _ _ hab hbc ha => ⟨(hbc (hab ha).1).1, (hbc (hab ha).1).2.trans (hab ha).2⟩) (fun _ _ _ hb => ⟨hb, rfl⟩)
    (fun _ off op hb => ⟨(hostAccess_staysInFlight hb off op).1, hostAccess_phase_busy hb off op⟩) s h k hbusy).2

theorem hostTurn_schedule (s : State) (h k : Nat) : (s.hostTurn h k).schedule = s.schedule := by
  refine hostTurn_relates (fun a b => b.schedule = a.schedule) (fun _ => rfl) (fun _ _ _ hab hbc => hbc.trans hab)
    (fun _ _ _ => rfl) (fun s off op => ?_) s h k
  obtain ⟨_, _, hschedule, _⟩ := hostAccess_frame s off op
  exact hschedule

/-- Where the engine moves next, the step is the completion of the command in flight. -/
theorem step_of_engineNext {s : State} (hnext : s.engineNext) :
    ∃ u, step s = .next u ∧ u.busy = false ∧ u.phase = .idle ∧ u.done = true := by
  obtain ⟨hbusy, hturn⟩ := hnext
  obtain ⟨s₀, hs₀, hstep⟩ : ∃ s₀ : State, s₀.phase = .busy ∧ step s = engineTurn s₀ := by
    rcases hturn with hnone | hengine
    · exact ⟨s, hbusy, step_of_no_turn hbusy hnone⟩
    · obtain ⟨rest, hrest⟩ := List.head?_eq_some_iff.1 hengine
      exact ⟨{ s with schedule := rest }, hbusy, step_of_turn hrest⟩
  obtain ⟨hidle, hphase, hdone, _⟩ := complete_flags s₀ s₀.flightOutcome
  exact ⟨_, hstep.trans (engineTurn_busy hs₀), hidle, hphase, hdone⟩

/-- A run is continued by one step at its end. -/
theorem runSteps_succ_of_step {k : Nat} {s t u : State} (hrun : runSteps k s = some t) (hstep : step t = .next u) :
    runSteps (k + 1) s = some u := by
  induction k generalizing s with
  | zero =>
    cases hrun
    exact runSteps_succ_eq_some.2 ⟨u, hstep, rfl⟩
  | succ k ih =>
    obtain ⟨s', hfirst, hrest⟩ := runSteps_succ_eq_some.1 hrun
    exact runSteps_succ_eq_some.2 ⟨s', hfirst, ih hrest⟩

/-- With no reset among the turns given, the engine's turn comes, and the hosts that move before it leave CMD. -/
theorem runSteps_reaches_engineNext {s : State} {turns : List Turn} (hsched : s.schedule = turns)
    (hphase : s.phase = .busy) (hbusy : s.busy = true) (hreset : Turn.reset ∉ turns) :
    ∃ k t, k ≤ turns.length ∧ runSteps k s = some t ∧ t.engineNext ∧ t.cmd = s.cmd := by
  induction turns generalizing s with
  | nil => exact ⟨0, s, Nat.le_refl _, rfl, ⟨hphase, .inl hsched⟩, rfl⟩
  | cons turn rest ih =>
    cases turn with
    | engine => exact ⟨0, s, Nat.zero_le _, rfl, ⟨hphase, .inr (by rw [hsched]; rfl)⟩, rfl⟩
    | reset => simp at hreset
    | host h n =>
      obtain ⟨s₀, hs₀⟩ : ∃ s₀ : State, s₀ = { s with schedule := rest } := ⟨_, rfl⟩
      have hbusy₀ : s₀.busy = true := by rw [hs₀, hbusy]
      have hphase₀ : s₀.phase = .busy := by rw [hs₀, hphase]
      have hstep : step s = .next (s₀.hostTurn h n) := by
        rw [step_of_turn hsched, ← hs₀]
        rfl
      obtain ⟨hbusy', hinputs⟩ := hostTurn_staysInFlight hbusy₀ h n
      obtain ⟨hcmd, _⟩ := inputs_eq_of_heldInputs hinputs
      obtain ⟨k, t, hk, hrun, hnext, ht⟩ := ih (s := s₀.hostTurn h n) (by rw [hostTurn_schedule, hs₀])
        (by rw [hostTurn_phase_busy hbusy₀, hphase₀]) hbusy' (List.not_mem_of_not_mem_cons hreset)
      refine ⟨k + 1, t, Nat.succ_le_succ hk, runSteps_succ_eq_some.2 ⟨_, hstep, hrun⟩, hnext, ?_⟩
      rw [ht, hcmd, hs₀]

/-- Settles O13: the step after the run to the engine's turn is the completion. -/
theorem busyBlockCompletes : Obligations.BusyBlockCompletes := by
  intro s hphase hbusy hreset
  obtain ⟨k, t, hk, hrun, hnext, hcmd⟩ := runSteps_reaches_engineNext rfl hphase hbusy hreset
  obtain ⟨u, hstep, hdone⟩ := step_of_engineNext hnext
  exact ⟨k, t, u, hk, hrun, hnext, hcmd, runSteps_succ_of_step hrun hstep, hdone⟩

end Sys2Proof.Machine

/-! # CRC-32 (41_crc32.md)

The statements about the function rest on `crcStep_eq_crcBits`: a table step is eight passes of the inner loop. It holds
because a pass is linear over exclusive or, so that the low byte (the table's index) and the rest of the register go through
the eight passes apart. That a flipped bit is seen rests on a pass being injective: bit 31 of its result is the bit shifted out. -/

namespace Sys2Proof.Machine

/-! ### The inner loop (R140) -/

theorem crcBit_even {c : Word} (h : c.getLsbD 0 = false) : crcBit c = c >>> 1 :=
  if_neg (by rw [h]; exact Bool.false_ne_true)

theorem crcBit_odd {c : Word} (h : c.getLsbD 0 = true) : crcBit c = (c >>> 1) ^^^ crcPoly := if_pos h

/-- A pass is linear over exclusive or. -/
theorem crcBit_xor (c d : Word) : crcBit (c ^^^ d) = crcBit c ^^^ crcBit d := by
  have hlow : (c ^^^ d).getLsbD 0 = (c.getLsbD 0 ^^ d.getLsbD 0) := BitVec.getLsbD_xor
  cases hc : c.getLsbD 0 <;> cases hd : d.getLsbD 0 <;> rw [hc, hd] at hlow
  · rw [crcBit_even hlow, crcBit_even hc, crcBit_even hd, BitVec.ushiftRight_xor_distrib]
  · rw [crcBit_odd hlow, crcBit_even hc, crcBit_odd hd, BitVec.ushiftRight_xor_distrib, BitVec.xor_assoc]
  · rw [crcBit_odd hlow, crcBit_odd hc, crcBit_even hd, BitVec.ushiftRight_xor_distrib]
    ac_rfl
  · rw [crcBit_even hlow, crcBit_odd hc, crcBit_odd hd, BitVec.ushiftRight_xor_distrib, BitVec.xor_comm (d >>> 1),
      BitVec.xor_assoc, xor_cancel_left]

/-- The bit shifted out comes back as bit 31, which is set in POLY. -/
theorem crcBit_getLsbD_31 (c : Word) : (crcBit c).getLsbD 31 = c.getLsbD 0 := by
  cases h : c.getLsbD 0
  · simp [crcBit_even h]
  · simp [crcBit_odd h, crcPoly]

theorem eq_zero_of_crcBit_eq_zero {c : Word} (h : crcBit c = 0#32) : c = 0#32 := by
  have hlow : c.getLsbD 0 = false := by rw [← crcBit_getLsbD_31, h]; rfl
  rw [crcBit_even hlow] at h
  refine BitVec.eq_of_getLsbD_eq fun i _ => ?_
  cases i with
  | zero => rw [hlow]; rfl
  | succ i => simpa [Nat.add_comm] using congrArg (·.getLsbD i) h

theorem crcBit_injective : Function.Injective crcBit := fun c d h => by
  have hxor : crcBit (c ^^^ d) = 0#32 := by rw [crcBit_xor, h, BitVec.xor_self]
  exact BitVec.xor_eq_zero_iff.1 (eq_zero_of_crcBit_eq_zero hxor)

theorem crcBits_xor (n : Nat) (c d : Word) : crcBits n (c ^^^ d) = crcBits n c ^^^ crcBits n d := by
  induction n generalizing c d with
  | zero => rfl
  | succ n ih => simp only [crcBits, crcBit_xor, ih]

theorem crcBits_injective (n : Nat) : Function.Injective (crcBits n) := by
  induction n with
  | zero => exact Function.injective_id
  | succ n ih => exact ih.comp crcBit_injective

/-- Where only zeros are shifted out, the passes are a shift. -/
theorem crcBits_of_low_zero {n : Nat} {c : Word} (h : ∀ i < n, c.getLsbD i = false) : crcBits n c = c >>> n := by
  induction n generalizing c with
  | zero => rfl
  | succ n ih =>
    have hshift : ∀ i < n, (c >>> 1).getLsbD i = false := fun i hi => by
      rw [BitVec.getLsbD_ushiftRight, Nat.add_comm]
      exact h (i + 1) (Nat.succ_lt_succ hi)
    rw [crcBits, crcBit_even (h 0 n.succ_pos), ih hshift, Nat.add_comm, BitVec.shiftRight_add]

/-! ### The table-driven function is the bit-serial one (R141, R143) -/

/-- A word is its low byte and the rest. -/
theorem lowByte_xor_rest (w : Word) : (w.setWidth 8).setWidth 32 ^^^ ((w >>> 8) <<< 8) = w := by
  refine BitVec.eq_of_getLsbD_eq fun i hi => ?_
  by_cases hlow : i < 8
  · simp [hlow, hi]
  · simp [hlow, hi, Nat.add_sub_cancel' (Nat.not_lt.1 hlow)]

theorem xor_byte_shiftRight (c : Word) (b : Byte) : (c ^^^ b.setWidth 32) >>> 8 = c >>> 8 := by
  have hbyte : b.setWidth 32 >>> 8 = 0#32 := by bv_omega
  rw [BitVec.ushiftRight_xor_distrib, hbyte, BitVec.xor_zero]

/-- The upper bytes of the register go through the eight passes as a shift, the low byte as the table's entry. -/
theorem crcStep_eq_crcBits (c : Word) (b : Byte) : crcStep c b = crcBits 8 (c ^^^ b.setWidth 32) := by
  obtain ⟨w, hw⟩ : ∃ w, w = c ^^^ b.setWidth 32 := ⟨_, rfl⟩
  have hrest : crcBits 8 ((w >>> 8) <<< 8) = w >>> 8 := by
    rw [crcBits_of_low_zero fun i hi => by simp [hi]]
    bv_omega
  calc crcStep c b = crcTable (w.setWidth 8) ^^^ w >>> 8 := by rw [crcStep, hw, xor_byte_shiftRight]
    _ = crcBits 8 ((w.setWidth 8).setWidth 32 ^^^ ((w >>> 8) <<< 8)) := by rw [crcBits_xor, hrest, crcTable]
    _ = crcBits 8 (c ^^^ b.setWidth 32) := by rw [lowByte_xor_rest, hw]

/-- Settles O25: the two functions fold equal steps. -/
theorem crcTableEqualsBitSerial : Obligations.CrcTableEqualsBitSerial := by
  intro m
  have hstep : crcStep = fun c b => crcBits 8 (c ^^^ b.setWidth 32) := funext₂ crcStep_eq_crcBits
  rw [crc32, crc32Bitwise, hstep]

/-! ### A changed byte changes the CRC (R144) -/

theorem crcStep_injective_register (b : Byte) : Function.Injective fun c => crcStep c b := fun c d h => by
  simp only [crcStep_eq_crcBits] at h
  exact (BitVec.xor_left_inj _).1 (crcBits_injective 8 h)

theorem crcStep_injective_byte (c : Word) : Function.Injective (crcStep c) := fun a b h => by
  simp only [crcStep_eq_crcBits] at h
  have hwide : a.setWidth 32 = b.setWidth 32 := (BitVec.xor_right_inj _).1 (crcBits_injective 8 h)
  bv_omega

/-- Two registers that differ still differ after the same bytes. -/
theorem foldl_crcStep_injective (m : List Byte) : Function.Injective fun c => m.foldl crcStep c := by
  induction m with
  | nil => exact Function.injective_id
  | cons b m ih => exact ih.comp (crcStep_injective_register b)

theorem crc32_append_cons_inj (pre post : List Byte) {a b : Byte} :
    crc32 (pre ++ a :: post) = crc32 (pre ++ b :: post) ↔ a = b := by
  refine ⟨fun h => ?_, fun h => by rw [h]⟩
  simp only [crc32, List.foldl_append, List.foldl_cons] at h
  exact crcStep_injective_byte _ (foldl_crcStep_injective post ((BitVec.xor_left_inj _).1 h))

/-- Replacing one byte keeps the CRC only where it keeps the byte. -/
theorem crc32_set_eq_iff {m : List Byte} {i : Nat} (hi : i < m.length) (b : Byte) :
    crc32 (m.set i b) = crc32 m ↔ b = m.getD i 0 := by
  have hset : m.set i b = m.take i ++ b :: m.drop (i + 1) := by
    rw [List.set_eq_take_append_cons_drop, if_pos hi]
  have hsplit : m.take i ++ m.getD i 0 :: m.drop (i + 1) = m := by
    rw [List.getD_eq_getElem m 0 hi, List.getElem_cons_drop, List.take_append_drop]
  rw [← crc32_append_cons_inj (m.take i) (m.drop (i + 1)), hsplit, hset]

/-- The byte that flips one bit is not zero. -/
theorem one_shiftLeft_ne_zero {k : Nat} (hk : k < 8) : (1 : Byte) <<< k ≠ 0#8 := fun h => by
  simpa [hk] using congrArg (·.getLsbD k) h

/-- Settles O26: the flipped byte is another byte. -/
theorem crcDetectsEverySingleBitFlip : Obligations.CrcDetectsEverySingleBitFlip := by
  intro m i k hi hk h
  have hbyte : m.getD i 0 ^^^ (1 : Byte) <<< k = m.getD i 0 := (crc32_set_eq_iff hi _).1 h
  exact one_shiftLeft_ne_zero hk (xor_left_eq_self_iff.1 hbyte)

/-! ### The command CRC32 (R142) -/

/-- Settles O15: the one check of CRC32 is the range of its source. -/
theorem crc32PutsTheChecksumInResult : Obligations.Crc32PutsTheChecksumInResult := by
  intro s hin
  have hpass : firstError crc32Checks s = none := by
    rw [crc32Checks, firstError_cons, (checkSrc_eq_none State.srcBytes s).2 hin]
    rfl
  have hrun : runOf .crc32 s = crc32Rule s := runChecked_of_pass crc32Rule hpass
  rw [exec_eq_complete, hrun]
  rfl

end Sys2Proof.Machine

/-! # The radix converter (42_radix.md)

A digit vector of the spec is Mathlib's `Nat.ofDigits` of its reverse (`numBase_eq_ofDigits`). Two digit vectors of one
length are equal when they stand for one number (`numBase_injective`): that is why the two conversions of R162 and R163
agree, and why RADIX_D2B gives back the bytes. The commands rest on `storedBy_complete`, what one recorded write leaves, and
on `memRead16_of_storedBy`, how a stored digit reads back. -/

namespace Sys2Proof.Machine

/-! ### The digit count (R160) -/

/-- The halving keeps what R160 asks: the answer is in the range, since `hi` is enough and nothing below `lo` is. -/
theorem leastExponent_spec {B v fuel lo hi : Nat} (hB : 0 < B) (hfuel : hi ≤ lo + fuel) (hle : lo ≤ hi)
    (hhi : v ≤ B ^ hi) (hlo : ∀ d, d < lo → B ^ d < v) :
    v ≤ B ^ leastExponent B v fuel lo hi ∧ ∀ d, d < leastExponent B v fuel lo hi → B ^ d < v := by
  induction fuel generalizing lo hi with
  | zero =>
    obtain rfl : lo = hi := by omega
    exact ⟨hhi, hlo⟩
  | succ fuel ih =>
    rw [leastExponent]
    split
    next hlt =>
      split
      next henough => exact ih (by omega) (by omega) henough hlo
      next hshort =>
        refine ih (by omega) (by omega) hhi fun d hd => ?_
        exact (Nat.pow_le_pow_right hB (by omega)).trans_lt (Nat.lt_of_not_le hshort)
    next hge =>
      obtain rfl : lo = hi := by omega
      exact ⟨hhi, hlo⟩

theorem pow_256_le (n : Nat) {B : Nat} (hB : 2 ≤ B) : 256 ^ n ≤ B ^ (8 * n) := by
  calc 256 ^ n = 2 ^ (8 * n) := by rw [Nat.pow_mul]
    _ ≤ B ^ (8 * n) := Nat.pow_le_pow_left hB _

/-- Settles O27. -/
theorem digitCountIsLeast : Obligations.DigitCountIsLeast := by
  intro n B hB
  exact leastExponent_spec (by omega) (by omega) (Nat.zero_le _) (pow_256_le n hB) fun d hd => by omega

theorem digitCount_le_iff (n : Nat) {B : Nat} (hB : 2 ≤ B) (d : Nat) : digitCount n B ≤ d ↔ 256 ^ n ≤ B ^ d := by
  obtain ⟨henough, hleast⟩ := digitCountIsLeast n B hB
  constructor
  · exact fun hle => henough.trans (Nat.pow_le_pow_right (by omega) hle)
  · exact fun hd => Nat.le_of_not_lt fun hlt => Nat.not_lt.2 hd (hleast d hlt)

theorem digitCount_le (n : Nat) {B : Nat} (hB : 2 ≤ B) : digitCount n B ≤ 8 * n :=
  (digitCount_le_iff n hB _).2 (pow_256_le n hB)

/-! ### Digit vectors and the numbers they stand for (00_scope.md R12, R17) -/

theorem numBase_concat (B : Nat) (d : List Nat) (x : Nat) : numBase B (d ++ [x]) = numBase B d * B + x := by
  simp [numBase]

theorem numBase_eq_ofDigits (B : Nat) (d : List Nat) : numBase B d = Nat.ofDigits B d.reverse := by
  induction d using List.reverseRecOn with
  | nil => rfl
  | append_singleton d x ih =>
    rw [numBase_concat, ih, List.reverse_concat, Nat.ofDigits_cons]
    ring

theorem numBase_cons (B x : Nat) (d : List Nat) : numBase B (x :: d) = x * B ^ d.length + numBase B d := by
  rw [numBase_eq_ofDigits, Nat.ofDigits_reverse_cons, ← numBase_eq_ofDigits]
  ring

theorem numBase_lt {B : Nat} {d : List Nat} (hB : 2 ≤ B) (hd : ∀ x ∈ d, x < B) : numBase B d < B ^ d.length := by
  have hrev : ∀ x ∈ d.reverse, x < B := fun x hx => hd x (List.mem_reverse.1 hx)
  rw [numBase_eq_ofDigits, ← List.length_reverse]
  exact Nat.ofDigits_lt_base_pow_length hB hrev

/-- Among the digit vectors of one length, the number determines the digits. -/
theorem numBase_injective {B : Nat} {d e : List Nat} (hB : 2 ≤ B) (hlen : d.length = e.length) (hd : ∀ x ∈ d, x < B)
    (he : ∀ x ∈ e, x < B) (h : numBase B d = numBase B e) : d = e := by
  rw [numBase_eq_ofDigits, numBase_eq_ofDigits] at h
  refine List.reverse_injective (Nat.ofDigits_inj_of_len_eq hB ?_ ?_ ?_ h) <;> simpa

theorem numBase_leading_zeros (B k : Nat) (d : List Nat) : numBase B (List.replicate k 0 ++ d) = numBase B d := by
  simp [numBase_eq_ofDigits]

/-- The bytes of a string are digits in base 256. -/
theorem map_toNat_lt_256 (m : List Byte) : ∀ x ∈ m.map BitVec.toNat, x < 256 := by
  simpa using fun (b : Byte) _ => b.isLt

theorem numBe_lt (m : List Byte) : numBe m < 256 ^ m.length := by
  simpa [numBe] using numBase_lt (by omega) (map_toNat_lt_256 m)

theorem numBe_injective {m m' : List Byte} (hlen : m.length = m'.length) (h : numBe m = numBe m') : m = m' := by
  have hmap : m.map BitVec.toNat = m'.map BitVec.toNat :=
    numBase_injective (by omega) (by simpa using hlen) (map_toNat_lt_256 m) (map_toNat_lt_256 m') h
  exact List.map_injective_iff.2 (fun a b => BitVec.eq_of_toNat_eq) hmap

/-! ### The lowest digits of a number (R162) -/

theorem digitsOf_succ (B v n : Nat) : digitsOf B v (n + 1) = digitsOf B (v / B) n ++ [v % B] := by
  have hinit : ∀ i ∈ List.range n, v / B ^ (n + 1 - 1 - i) % B = v / B / B ^ (n - 1 - i) % B := fun i hi => by
    have hexp : n + 1 - 1 - i = n - 1 - i + 1 := by
      have := List.mem_range.1 hi
      omega
    rw [hexp, Nat.pow_succ', Nat.div_div_eq_div_mul]
  simp only [digitsOf, List.range_succ, List.map_append, List.map_congr_left hinit]
  simp

theorem digitsOf_lt {B v n : Nat} (hB : 0 < B) : ∀ x ∈ digitsOf B v n, x < B := by
  simpa [digitsOf] using fun i _ => Nat.mod_lt _ hB

theorem digitsOf_getD (B v : Nat) {n i : Nat} (hi : i < n) : (digitsOf B v n).getD i 0 = v / B ^ (n - 1 - i) % B := by
  simp [digitsOf, hi]

theorem numBase_digitsOf (B v n : Nat) : numBase B (digitsOf B v n) = v % B ^ n := by
  induction n generalizing v with
  | zero => simp [digitsOf, numBase, Nat.mod_one]
  | succ n ih =>
    rw [digitsOf_succ, numBase_concat, ih, Nat.pow_succ', Nat.mod_mul]
    ring

theorem numBe_bytesBe (v n : Nat) : numBe (bytesBe v n) = v % 256 ^ n := by
  have hbytes : ∀ x ∈ digitsOf 256 v n, (BitVec.ofNat 8 x).toNat = x := fun x hx =>
    Nat.mod_eq_of_lt (digitsOf_lt (by omega) x hx)
  rw [numBe, bytesBe, List.map_map, Function.comp_def, List.map_congr_left hbytes, List.map_id', numBase_digitsOf]

/-! ### The digits of a byte string (R160, R162) -/

/-- D digits are enough for every string of that many bytes. -/
theorem numBe_lt_pow_digitCount (m : List Byte) {B : Nat} (hB : 2 ≤ B) : numBe m < B ^ digitCount m.length B :=
  (numBe_lt m).trans_le ((digitCount_le_iff m.length hB _).1 le_rfl)

theorem bytesToDigits_lt (m : List Byte) {B : Nat} (hB : 2 ≤ B) : ∀ x ∈ bytesToDigits m B, x < B :=
  digitsOf_lt (by omega)

theorem numBase_bytesToDigits (m : List Byte) {B : Nat} (hB : 2 ≤ B) : numBase B (bytesToDigits m B) = numBe m := by
  rw [bytesToDigits, numBase_digitsOf, Nat.mod_eq_of_lt (numBe_lt_pow_digitCount m hB)]

/-- Settles O28. -/
theorem digitsStandForTheBytes : Obligations.DigitsStandForTheBytes := by
  intro m B hB _
  exact ⟨length_bytesToDigits m B, bytesToDigits_lt m hB, fun i hi => digitsOf_getD B _ hi, numBase_bytesToDigits m hB⟩

/-! ### The repeated long division (R163) -/

@[simp] theorem length_divPass (F T : Nat) (src : List Nat) (rem : Nat) : (divPass F T src rem).1.length = src.length := by
  induction src generalizing rem with
  | nil => rfl
  | cons x src ih => simp [divPass, ih]

/-- A pass that starts with the remainder `rem` divides the number `rem · F^|src| + num_F(src)`. -/
theorem divPass_spec (F T : Nat) (src : List Nat) (rem : Nat) :
    T * numBase F (divPass F T src rem).1 + (divPass F T src rem).2 = rem * F ^ src.length + numBase F src := by
  induction src generalizing rem with
  | nil => simp [divPass, numBase]
  | cons x src ih =>
    have hcur : T * ((rem * F + x) / T) + (rem * F + x) % T = rem * F + x := Nat.div_add_mod _ _
    simp only [divPass, numBase_cons, length_divPass, List.length_cons]
    calc _ = T * ((rem * F + x) / T) * F ^ src.length +
          (T * numBase F (divPass F T src ((rem * F + x) % T)).1 + (divPass F T src ((rem * F + x) % T)).2) := by ring
      _ = (T * ((rem * F + x) / T) + (rem * F + x) % T) * F ^ src.length + numBase F src := by rw [ih]; ring
      _ = rem * F ^ (src.length + 1) + (x * F ^ src.length + numBase F src) := by rw [hcur]; ring

theorem divPass_rem_lt {F T : Nat} {src : List Nat} {rem : Nat} (hrem : rem < T) : (divPass F T src rem).2 < T := by
  induction src generalizing rem with
  | nil => exact hrem
  | cons x src ih => exact ih (Nat.mod_lt _ (by omega))

theorem divPass_quotient {F T : Nat} (hT : 0 < T) (src : List Nat) :
    numBase F (divPass F T src 0).1 = numBase F src / T := by
  have hspec := divPass_spec F T src 0
  rw [Nat.zero_mul, Nat.zero_add] at hspec
  rw [← hspec, Nat.mul_add_div hT, Nat.div_eq_of_lt (divPass_rem_lt hT), Nat.add_zero]

theorem divPass_remainder {F T : Nat} (hT : 0 < T) (src : List Nat) : (divPass F T src 0).2 = numBase F src % T := by
  have hspec := divPass_spec F T src 0
  rw [Nat.zero_mul, Nat.zero_add] at hspec
  rw [← hspec, Nat.mul_add_mod, Nat.mod_eq_of_lt (divPass_rem_lt hT)]

theorem all_zero_iff_numBase {F : Nat} (hF : 0 < F) (src : List Nat) : src.all (· == 0) = true ↔ numBase F src = 0 := by
  induction src with
  | nil => simp [numBase]
  | cons x src ih =>
    simp [numBase_cons, ih, hF.ne']

/-- The passes give Mathlib's digits of the number, least significant first. -/
theorem divPasses_eq_digits {F T fuel : Nat} {src : List Nat} (hF : 0 < F) (hT : 2 ≤ T) (hfuel : numBase F src ≤ fuel) :
    divPasses F T fuel src = Nat.digits T (numBase F src) := by
  induction fuel generalizing src with
  | zero => rw [Nat.le_zero.1 hfuel, Nat.digits_zero, divPasses]
  | succ fuel ih =>
    rw [divPasses]
    split
    next hzero => rw [(all_zero_iff_numBase hF src).1 hzero, Nat.digits_zero]
    next hne =>
      have hpos : 0 < numBase F src := Nat.pos_of_ne_zero fun h => hne ((all_zero_iff_numBase hF src).2 h)
      have hsmaller : numBase F src / T < numBase F src := Nat.div_lt_self hpos hT
      have hquot := divPass_quotient (F := F) (by omega : 0 < T) src
      rw [Nat.digits_def' hT hpos, divPass_remainder (by omega), ih (by omega), hquot]

theorem convertDigits_eq {F T : Nat} (hF : 0 < F) (hT : 2 ≤ T) (src : List Nat) :
    convertDigits src F T = (Nat.digits T (numBase F src)).reverse := by
  rw [convertDigits, divPasses_eq_digits hF hT le_rfl]

/-- Settles O29: both vectors have D digits below the base and stand for the same number. -/
theorem longDivisionGivesTheDigits : Obligations.LongDivisionGivesTheDigits := by
  intro m B hB _
  have hconvert : convertDigits (m.map BitVec.toNat) 256 B = (Nat.digits B (numBe m)).reverse :=
    convertDigits_eq (by omega) hB _
  rw [hconvert, List.length_reverse]
  have hlen : (Nat.digits B (numBe m)).length ≤ digitCount m.length B :=
    (Nat.digits_length_le_iff hB _).2 (numBe_lt_pow_digitCount m hB)
  refine ⟨hlen, numBase_injective hB (by simp; omega) (bytesToDigits_lt m hB) (fun x hx => ?_) ?_⟩
  · rcases List.mem_append.1 hx with hzero | hdigit
    · rw [List.eq_of_mem_replicate hzero]
      omega
    · exact Nat.digits_lt_base hB (List.mem_reverse.1 hdigit)
  · rw [numBase_bytesToDigits m hB, numBase_leading_zeros, numBase_eq_ofDigits, List.reverse_reverse,
      Nat.ofDigits_digits]


/-! ### Commands that succeed (40_control.md R124, R126) -/

/-- A command reports the code 0x00 only where all its checks pass. -/
theorem firstError_of_errcode_zero {i : Instr} {s t : State} (hrun : exec i s = .next t) (hcode : t.errcode = 0x00) :
    firstError (checksOf i) s = none := by
  rw [exec_eq_complete] at hrun
  obtain rfl := Host.Outcome.next.inj hrun
  rw [complete_runOf_errcode, reportedCode] at hcode
  cases hfirst : firstError (checksOf i) s with
  | none => rfl
  | some e =>
    rw [hfirst] at hcode
    exact absurd hcode (code_ne_zero e)

/-- What a success with one recorded write and a result leaves. -/
theorem storedBy_complete (s : State) (a : Nat) (out : List Byte) (res : Word) :
    s.StoredBy (s.complete (.ok [⟨a, out⟩] (some res))) a out res := by
  have hbyte : ∀ x, (s.complete (.ok [⟨a, out⟩] (some res))).bufByte x = (s.storeBytes a out).bufByte x :=
    bufByte_congr rfl rfl
  refine ⟨fun i hi => ?_, fun x hx => ?_, rfl⟩
  · rw [hbyte, bufByte_storeBytes, if_pos (by omega), Nat.add_sub_cancel_left]
  · rw [hbyte, bufByte_storeBytes, if_neg (by omega)]

/-- The fields of a state after a success that stored bytes, as far as a next command and its checks read them. -/
theorem storedBy_frame {s t : State} {a : Nat} {out : List Byte} {res : Word} (h : s.StoredBy t a out res) :
    t.dst = s.dst ∧ t.len = s.len ∧ t.base = s.base ∧ t.cfg = s.cfg ∧ t.errcode = 0x00 ∧ t.result = res := by
  obtain ⟨_, _, ht⟩ := h
  rw [ht]
  exact ⟨rfl, rfl, rfl, rfl, rfl, rfl⟩

/-! ### Digits in BUF (R161) -/

/-- The two bytes of digit `i`, low byte first; past the last digit both sides are 0. -/
theorem digitBytes_getD (d : List Nat) (i : Nat) :
    (digitBytes d).getD (2 * i) 0 = BitVec.ofNat 8 (d.getD i 0) ∧
    (digitBytes d).getD (2 * i + 1) 0 = BitVec.ofNat 8 (d.getD i 0 / 256) := by
  induction d generalizing i with
  | nil => simp [digitBytes]
  | cons x d ih =>
    have hcons : digitBytes (x :: d) = BitVec.ofNat 8 x :: BitVec.ofNat 8 (x / 256) :: digitBytes d := rfl
    cases i with
    | zero => simp [hcons]
    | succ i => simpa [hcons, Nat.mul_add] using ih i

/-- A stored digit reads back, since it is below 65536 (R161). -/
theorem memRead16_of_storedBy {s t : State} {a : Nat} {d : List Nat} {res : Word}
    (h : s.StoredBy t a (digitBytes d) res) {i : Nat} (hi : i < d.length) (hd : d.getD i 0 < 65536) :
    t.memRead16 (a + 2 * i) = d.getD i 0 := by
  obtain ⟨hbytes, _, _⟩ := h
  obtain ⟨hlow, hhigh⟩ := digitBytes_getD d i
  rw [length_digitBytes] at hbytes
  rw [State.memRead16, Nat.add_assoc, hbytes _ (by omega), hbytes _ (by omega), hlow, hhigh, BitVec.toNat_ofNat,
    BitVec.toNat_ofNat]
  omega

theorem readDigits_eq {s : State} {a : Nat} {d : List Nat}
    (h : ∀ i, i < d.length → s.memRead16 (a + 2 * i) = d.getD i 0) : s.readDigits a d.length = d := by
  refine List.ext_getElem (by simp [State.readDigits]) fun i _ hi => ?_
  simp [State.readDigits, h i hi, hi]

/-! ### The three commands (R165 to R167) -/

theorem radixB2dChecks_pass_iff (s : State) :
    firstError radixB2dChecks s = none ↔
      (2 ≤ s.base.toNat ∧ s.base.toNat ≤ 65536) ∧ s.src.toNat + s.len.toNat ≤ s.cfg.bufBytes ∧
      s.dst.toNat + 2 * digitCount s.len.toNat s.base.toNat ≤ s.cfg.bufBytes := by
  simp only [firstError_eq_none, radixB2dChecks, List.forall_mem_cons, checkBase_eq_none, checkSrc_eq_none,
    checkDst_eq_none, List.not_mem_nil, false_implies, implies_true, and_true]
  rfl

theorem radixD2bChecks_pass_iff (s : State) :
    firstError radixD2bChecks s = none ↔
      (2 ≤ s.base.toNat ∧ s.base.toNat ≤ 65536) ∧ s.src.toNat + 2 * s.xlen.toNat ≤ s.cfg.bufBytes ∧
      s.dst.toNat + s.len.toNat ≤ s.cfg.bufBytes ∧
      (∀ j, j < s.xlen.toNat → s.memRead16 (s.src.toNat + 2 * j) < s.base.toNat) ∧
      numBase s.base.toNat (s.readDigits s.src.toNat s.xlen.toNat) < 256 ^ s.len.toNat := by
  simp only [firstError_eq_none, radixD2bChecks, List.forall_mem_cons, checkBase_eq_none, checkSrc_eq_none,
    checkDst_eq_none, checkDigits_eq_none, checkOverflow_eq_none, List.not_mem_nil, false_implies, implies_true, and_true]
  rfl

theorem radixDcountChecks_pass_iff (s : State) :
    firstError radixDcountChecks s = none ↔
      (2 ≤ s.base.toNat ∧ s.base.toNat ≤ 65536) ∧ s.len.toNat ≤ s.cfg.bufBytes := by
  simp only [firstError_eq_none, radixDcountChecks, List.forall_mem_cons, checkBase_eq_none, checkCountLen_eq_none,
    List.not_mem_nil, false_implies, implies_true, and_true]

/-- The digit count fits RESULT where the bytes fit BUF (R167; log 16). -/
theorem digitTotal_word_toNat {s : State} (hwf : s.cfg.wf = true) (hB : 2 ≤ s.base.toNat)
    (hlen : s.len.toNat ≤ s.cfg.bufBytes) : (BitVec.ofNat 32 s.digitTotal).toNat = s.digitTotal := by
  have hbuf : s.cfg.bufBytes ≤ 32768 := bufBytes_le_of_wf hwf
  have hcount : s.digitTotal ≤ 8 * s.len.toNat := digitCount_le _ hB
  rw [BitVec.toNat_ofNat, Nat.mod_eq_of_lt (by omega)]

/-- Settles O21. -/
theorem radixDcountPutsTheCountInResult : Obligations.RadixDcountPutsTheCountInResult := by
  intro s hwf hB hB' hlen
  have hrun : runOf .radixDcount s = radixDcountRule s :=
    runChecked_of_pass _ ((radixDcountChecks_pass_iff s).2 ⟨⟨hB, hB'⟩, hlen⟩)
  rw [exec_eq_complete, hrun]
  exact ⟨_, rfl, digitTotal_word_toNat hwf hB hlen, rfl⟩

/-- Settles O19. -/
theorem radixB2dStoresTheDigits : Obligations.RadixB2dStoresTheDigits := by
  intro s hwf hB hB' hsrc hdst
  have hrun : runOf .radixB2d s = radixB2dRule s :=
    runChecked_of_pass _ ((radixB2dChecks_pass_iff s).2 ⟨⟨hB, hB'⟩, hsrc, hdst⟩)
  have hlen : (bytesToDigits (s.memRead s.src.toNat s.len.toNat) s.base.toNat).length =
      digitCount s.len.toNat s.base.toNat := by simp
  have hstored := storedBy_complete s s.dst.toNat
    (digitBytes (bytesToDigits (s.memRead s.src.toNat s.len.toNat) s.base.toNat)) (BitVec.ofNat 32 s.digitTotal)
  rw [exec_eq_complete, hrun]
  refine ⟨_, _, _, rfl, rfl, hlen, rfl, length_digitBytes _, hstored, ?_, fun i hi => ?_⟩
  · exact (digitTotal_word_toNat hwf hB (by omega)).trans hlen.symm
  · refine memRead16_of_storedBy hstored hi ?_
    rw [List.getD_eq_getElem _ 0 hi]
    exact (bytesToDigits_lt _ hB _ (List.getElem_mem hi)).trans_le hB'

/-- Settles O20. -/
theorem radixD2bStoresTheBytes : Obligations.RadixD2bStoresTheBytes := by
  intro s hB hB' hsrc hdst hdigits hvalue
  have hrun : runOf .radixD2b s = radixD2bRule s :=
    runChecked_of_pass _ ((radixD2bChecks_pass_iff s).2 ⟨⟨hB, hB'⟩, hsrc, hdst, hdigits, hvalue⟩)
  rw [exec_eq_complete, hrun]
  exact ⟨_, _, rfl, length_bytesBe _ _, (numBe_bytesBe _ _).trans (Nat.mod_eq_of_lt hvalue), storedBy_complete ..⟩

/-- RADIX_D2B of the digits of `m` writes `m`: its number is that of `m`, and one string of LEN bytes stands for it. -/
theorem execRadixD2b_of_bytesToDigits {s : State} {m : List Byte} (hB : 2 ≤ s.base.toNat) (hB' : s.base.toNat ≤ 65536)
    (hsrc : s.src.toNat + 2 * s.xlen.toNat ≤ s.cfg.bufBytes) (hdst : s.dst.toNat + s.len.toNat ≤ s.cfg.bufBytes)
    (hlen : m.length = s.len.toNat)
    (hdigits : s.readDigits s.src.toNat s.xlen.toNat = bytesToDigits m s.base.toNat) :
    ∃ u, exec .radixD2b s = .next u ∧ s.StoredBy u s.dst.toNat m s.len := by
  have hnum : numBase s.base.toNat (s.readDigits s.src.toNat s.xlen.toNat) = numBe m := by
    rw [hdigits, numBase_bytesToDigits m hB]
  have hbelow : ∀ j, j < s.xlen.toNat → s.memRead16 (s.src.toNat + 2 * j) < s.base.toNat := fun j hj =>
    bytesToDigits_lt m hB _ (hdigits ▸ List.mem_map_of_mem (List.mem_range.2 hj))
  have hfits : numBase s.base.toNat (s.readDigits s.src.toNat s.xlen.toNat) < 256 ^ s.len.toNat := by
    rw [hnum, ← hlen]
    exact numBe_lt m
  obtain ⟨u, out, hrun, houtlen, hout, hstored⟩ := radixD2bStoresTheBytes s hB hB' hsrc hdst hbelow hfits
  obtain rfl : out = m := numBe_injective (houtlen.trans hlen.symm) (hout.trans hnum)
  exact ⟨u, hrun, hstored⟩

/-- Settles O23: the second command reads the digits that the first one stored. -/
theorem radixCommandsRoundTrip : Obligations.RadixCommandsRoundTrip := by
  intro s t d hwf hrun hcode hd
  obtain ⟨⟨hB, hB'⟩, hsrc, hdst⟩ := (radixB2dChecks_pass_iff s).1 (firstError_of_errcode_zero hrun hcode)
  obtain ⟨t, ds, _, hrun', hds, hcount, _, _, hstored, hres, hread⟩ := radixB2dStoresTheDigits s hwf hB hB' hsrc hdst
  cases hrun.symm.trans hrun'
  obtain ⟨htdst, htlen, htbase, htcfg, _, _⟩ := storedBy_frame hstored
  rw [← hcount, ← hres, ← htdst, ← htcfg] at hdst
  rw [← htlen, ← htcfg] at hd
  rw [← htdst] at hread
  rw [← htbase] at hB hB' hds
  have hdigits : t.readDigits t.dst.toNat t.result.toNat = ds := by rw [hres, readDigits_eq hread]
  have hlen : (s.memRead s.src.toNat s.len.toNat).length = t.len.toNat := by rw [length_memRead, htlen]
  obtain ⟨u, hexec, hback⟩ := execRadixD2b_of_bytesToDigits
    (s := { t with src := t.dst, xlen := t.result, dst := d }) hB hB' hdst hd hlen (hdigits.trans hds)
  obtain ⟨_, _, _, _, hucode, hures⟩ := storedBy_frame hback
  obtain ⟨hbytes, _, _⟩ := hback
  refine ⟨u, hexec, hucode, hures.trans htlen, fun i hi => ?_⟩
  rw [hbytes i (by rwa [length_memRead]), memRead_getD s _ _ i hi]

end Sys2Proof.Machine

/-! # The keyed permutation (43_prp.md)

SHA-256 is used only through its padding and its digest's length. The PRF is a row of 32-byte blocks
(`getD_flatMap_range`), and the permutations rest on `xorc_xorc` and on `feistelRounds_split`: what `n` forward rounds make,
cut where R196 cuts it, the inverse rounds take back to where the forward ones began. The three commands share
`exec_of_keyedResult`. -/

namespace Sys2Proof.Machine

/-! ### Big-endian words (00_scope.md R12) -/

@[simp] theorem length_be64 (v : Nat) : (be64 v).length = 8 := rfl

theorem numBe_append (s t : List Byte) : numBe (s ++ t) = numBe s * 256 ^ t.length + numBe t := by
  simp only [numBe, numBase_eq_ofDigits, List.map_append, List.reverse_append, Nat.ofDigits_append, List.length_reverse,
    List.length_map]
  ring

theorem numBe_be32 (v : Word) : numBe (be32 v) = v.toNat := by
  have hlt : v.toNat < 2 ^ 32 := v.isLt
  simp only [numBe, numBase, be32, List.map_cons, List.map_nil, List.foldl_cons, List.foldl_nil, BitVec.extractLsb'_toNat,
    Nat.shiftRight_eq_div_pow]
  omega

/-- BE64 is exact below 2^64. -/
theorem numBe_be64 {v : Nat} (hv : v < 2 ^ 64) : numBe (be64 v) = v := by
  rw [be64, numBe_append, numBe_be32, numBe_be32, length_be32, BitVec.toNat_ofNat, BitVec.toNat_ofNat]
  omega

/-! ### SHA-256 (R190) -/

@[simp] theorem length_zeros (n : Nat) : (zeros n).length = n := List.length_replicate

@[simp] theorem length_sha256 (m : List Byte) : (sha256 m).length = 32 := length_hashWords_bytes _

theorem length_shaPad (m : List Byte) : (shaPad m).length = m.length + 9 + (119 - m.length % 64) % 64 := by
  simp only [shaPad, List.length_append, List.length_singleton, length_zeros, length_be64]
  omega

/-- Settles O30. -/
theorem shaPaddingIsLeast : Obligations.ShaPaddingIsLeast := by
  intro m
  have hlen := length_shaPad m
  have hfields : shaPad m = m ++ 0x80 :: (zeros ((119 - m.length % 64) % 64) ++ be64 (8 * m.length)) := by simp [shaPad]
  have hlast : (shaPad m).drop ((shaPad m).length - 8) = be64 (8 * m.length) :=
    List.drop_left' (by simp only [shaPad, List.length_append, length_be64, Nat.add_sub_cancel])
  refine ⟨by simp [hfields], by simp [hfields], fun i hi hi8 => ?_, hlast, fun hm => ?_, by omega, by omega, by omega,
    length_sha256 m⟩
  · obtain ⟨j, rfl⟩ := Nat.exists_eq_add_of_lt hi
    have hj : j < (zeros ((119 - m.length % 64) % 64)).length := by rw [length_zeros]; omega
    rw [hfields, List.getElem?_append_right (by omega), Nat.add_assoc, Nat.add_sub_cancel_left, List.getElem?_cons_succ,
      List.getElem?_append_left hj]
    exact List.getElem?_replicate_of_lt (by simpa using hj)
  · rw [hlast, numBe_be64 (by omega)]

/-! ### The PRF (R193) -/

/-- Element `j` of a row of blocks that are all `w` long lies in block `j / w`. -/
theorem getD_flatMap_range {α : Type} {f : Nat → List α} {w : Nat} (hf : ∀ c, (f c).length = w) (x : α) {n j : Nat}
    (hj : j < n * w) : ((List.range n).flatMap f).getD j x = (f (j / w)).getD (j % w) x := by
  have hflat : ∀ k, ((List.range k).flatMap f).length = k * w := fun k => by simp [List.length_flatMap, hf]
  induction n with
  | zero => omega
  | succ n ih =>
    rw [List.range_succ, List.flatMap_append, List.flatMap_singleton]
    rcases Nat.lt_or_ge j (n * w) with hlow | hhigh
    · rw [List.getD_append _ _ _ _ (by rwa [hflat]), ih hlow]
    · have hdiv : j / w = n := Nat.div_eq_of_lt_le hhigh hj
      have hmod : j % w = j - n * w := by rw [Nat.mod_eq_sub_mul_div, hdiv, Nat.mul_comm]
      rw [List.getD_append_right _ _ _ _ (by rwa [hflat]), hflat, hdiv, hmod]

/-- Settles O31. -/
theorem prfBytesAreMacBytes : Obligations.PrfBytesAreMacBytes := by
  intro x k r
  refine ⟨length_prf x k r, fun j hj => ?_⟩
  have hblock : j < (x.length + 31) / 32 * 32 := by omega
  rw [← getD_flatMap_range (fun c => length_hmac k (x ++ be32 r ++ be32 (BitVec.ofNat 32 c))) 0 hblock, prf,
    List.getD_eq_getElem?_getD, List.getElem?_take_of_lt hj, List.getD_eq_getElem?_getD]

/-! ### The cyclic xor (R194) -/

@[simp] theorem xorc_nil_right (l : List Byte) : xorc l [] = l := rfl

@[simp] theorem xorc_nil_left (f : List Byte) : xorc [] f = [] := List.eq_nil_of_length_eq_zero (length_xorc [] f)

/-- One equation for both cases of `xorc`: an empty F has the byte 0 everywhere. -/
theorem xorc_getD {l : List Byte} (f : List Byte) {i : Nat} (hi : i < l.length) :
    (xorc l f).getD i 0 = l.getD i 0 ^^^ f.getD (i % f.length) 0 := by
  cases f with
  | nil => simp
  | cons b f => simp [xorc, hi]

/-- Settles O32. -/
theorem cyclicXorBytes : Obligations.CyclicXorBytes := by
  intro l f
  refine ⟨?_, fun _ => ⟨length_xorc l f, fun i hi => xorc_getD f hi⟩⟩
  rintro rfl
  exact xorc_nil_right l

/-- With a fixed F the cyclic xor is its own inverse (R201). -/
theorem xorc_xorc (l f : List Byte) : xorc (xorc l f) f = l := by
  refine List.ext_getElem (by simp) fun i _ hi => ?_
  have hbyte : (xorc (xorc l f) f).getD i 0 = l.getD i 0 := by
    rw [xorc_getD f (by simpa using hi), xorc_getD f hi, BitVec.xor_assoc, BitVec.xor_self, BitVec.xor_zero]
  rwa [List.getD_eq_getElem, List.getD_eq_getElem] at hbyte

/-! ### The permutations (R195, R196, R201, R204) -/

theorem feistelRounds_succ (k : List Byte) (n i : Nat) (l r : List Byte) :
    feistelRounds k (n + 1) i l r = feistelRounds k n (i + 1) r (xorc l (prf r k (BitVec.ofNat 32 i))) := rfl

theorem feistelUnrounds_succ (k : List Byte) (n : Nat) (l r : List Byte) :
    feistelUnrounds k (n + 1) l r = feistelUnrounds k n (xorc r (prf l k (BitVec.ofNat 32 n))) l := rfl

/-- Settles O33. -/
theorem feistelForwardRound : Obligations.FeistelForwardRound := by
  intro m k rho
  refine ⟨?_, length_feistelFwd m k rho⟩
  rw [feistelFwd, feistelRounds_succ, feistelRounds, BitVec.ofNat_eq_ofNat]

/-- What `n` forward rounds from round `i` on make has two halves, the first as long as the parity of `n` says; from these
halves the inverse rounds, from round i + n - 1 down, come to where the forward rounds began. -/
theorem feistelRounds_split (k : List Byte) (n i : Nat) (l r : List Byte) :
    ∃ l' r', feistelRounds k n i l r = l' ++ r' ∧ l'.length = (if n % 2 = 0 then l.length else r.length) ∧
      feistelUnrounds k (i + n) l' r' = feistelUnrounds k i l r := by
  induction n generalizing i l r with
  | zero => exact ⟨l, r, rfl, rfl, rfl⟩
  | succ n ih =>
    obtain ⟨l', r', hhalves, hlen, hback⟩ := ih (i + 1) r (xorc l (prf r k (BitVec.ofNat 32 i)))
    refine ⟨l', r', hhalves, ?_, ?_⟩
    · rw [hlen, length_xorc]
      split_ifs <;> omega
    · rw [← Nat.add_assoc, Nat.add_right_comm, hback, feistelUnrounds_succ, xorc_xorc]

theorem feistelInv_feistelFwd (m k : List Byte) (rho : Nat) : feistelInv (feistelFwd m k rho) k rho = m := by
  obtain ⟨l, r, hhalves, hlen, hback⟩ :=
    feistelRounds_split k rho 0 (m.take (m.length / 2)) (m.drop (m.length / 2))
  have hsplit : feistelSplit m.length rho = l.length := by
    rw [hlen, feistelSplit, List.length_take, List.length_drop, Nat.min_eq_left (Nat.div_le_self _ _)]
  calc feistelInv (feistelFwd m k rho) k rho
      = feistelUnrounds k rho ((l ++ r).take l.length) ((l ++ r).drop l.length) := by
        rw [feistelInv, length_feistelFwd, hsplit, feistelFwd, hhalves]
    _ = feistelUnrounds k (0 + rho) l r := by rw [List.take_left, List.drop_left, Nat.zero_add]
    _ = m := by rw [hback, feistelUnrounds, List.take_append_drop]

/-- Settles O34: every inverse round undoes its forward round, and R196 cuts the output where the forward rounds joined
it. -/
theorem feistelInverseUndoesForward : Obligations.FeistelInverseUndoesForward :=
  fun m k rho _ _ _ => feistelInv_feistelFwd m k rho

/-- Where one half is empty the rounds only exchange the halves. -/
theorem feistelRounds_of_empty_half (k : List Byte) (n i : Nat) {l r : List Byte} (h : l = [] ∨ r = []) :
    feistelRounds k n i l r = l ++ r := by
  induction n generalizing i l r with
  | zero => rfl
  | succ n ih =>
    rw [feistelRounds_succ]
    rcases h with rfl | rfl
    · rw [xorc_nil_left, ih _ (.inr rfl), List.append_nil, List.nil_append]
    · have hprf : prf [] k (BitVec.ofNat 32 i) = [] := List.eq_nil_of_length_eq_zero (length_prf _ _ _)
      rw [hprf, xorc_nil_right, ih _ (.inl rfl), List.append_nil, List.nil_append]

/-- Settles O35: the inverse permutation follows by the round trip. -/
theorem smallRegionsAreUnchanged : Obligations.SmallRegionsAreUnchanged := by
  intro m k rho hm
  have hhalf : m.take (m.length / 2) = [] := by
    rw [Nat.div_eq_of_lt (by omega), List.take_zero]
  have hfwd : feistelFwd m k rho = m := by
    rw [feistelFwd, feistelRounds_of_empty_half k rho 0 (.inl hhalf), List.take_append_drop]
  refine ⟨hfwd, ?_⟩
  simpa only [hfwd] using feistelInv_feistelFwd m k rho

/-! ### The three commands (R198 to R201) -/

theorem keyedChecks_pass_iff (s : State) :
    firstError keyedChecks s = none ↔
      (1 ≤ s.klen.toNat ∧ s.klen.toNat ≤ 64) ∧ s.src.toNat + s.len.toNat ≤ s.cfg.bufBytes ∧
      s.dst.toNat + s.len.toNat ≤ s.cfg.bufBytes ∧ s.kaddr.toNat + s.klen.toNat ≤ s.cfg.bufBytes := by
  simp only [firstError_eq_none, keyedChecks, List.forall_mem_cons, checkKeyLen_eq_none, checkSrc_eq_none,
    checkDst_eq_none, checkKey_eq_none, List.not_mem_nil, false_implies, implies_true, and_true]
  rfl

theorem feistelChecks_pass_iff (s : State) :
    firstError feistelChecks s = none ↔ s.rounds ≠ 0 ∧ firstError keyedChecks s = none := by
  simp only [firstError_eq_none, feistelChecks, List.forall_mem_cons, checkRounds_eq_none]

/-- What a keyed command leaves once its checks pass: its output at DST and LEN in RESULT. -/
theorem exec_of_keyedResult {i : Instr} {s : State} {out : List Byte} (hrun : runOf i s = keyedResult s out)
    (hlen : out.length = s.len.toNat) :
    ∃ t out', exec i s = .next t ∧ out' = out ∧ out'.length = s.len.toNat ∧ s.StoredBy t s.dst.toNat out' s.len := by
  rw [exec_eq_complete, hrun]
  exact ⟨_, out, rfl, rfl, hlen, storedBy_complete ..⟩

/-- Settles O16. -/
theorem feistelFwdStoresThePermutedRegion : Obligations.FeistelFwdStoresThePermutedRegion := by
  intro s hrounds hk hk' hsrc hdst hkey
  have hpass : firstError feistelChecks s = none :=
    (feistelChecks_pass_iff s).2 ⟨hrounds, (keyedChecks_pass_iff s).2 ⟨⟨hk, hk'⟩, hsrc, hdst, hkey⟩⟩
  exact exec_of_keyedResult (runChecked_of_pass feistelFwdRule hpass) (by simp)

/-- Settles O17. -/
theorem feistelInvStoresThePermutedRegion : Obligations.FeistelInvStoresThePermutedRegion := by
  intro s hrounds hk hk' hsrc hdst hkey
  have hpass : firstError feistelChecks s = none :=
    (feistelChecks_pass_iff s).2 ⟨hrounds, (keyedChecks_pass_iff s).2 ⟨⟨hk, hk'⟩, hsrc, hdst, hkey⟩⟩
  exact exec_of_keyedResult (runChecked_of_pass feistelInvRule hpass) (by simp)

/-- Settles O18. -/
theorem prfStoresThePseudorandomBytes : Obligations.PrfStoresThePseudorandomBytes := by
  intro s hk hk' hsrc hdst hkey
  have hpass : firstError keyedChecks s = none := (keyedChecks_pass_iff s).2 ⟨⟨hk, hk'⟩, hsrc, hdst, hkey⟩
  exact exec_of_keyedResult (runChecked_of_pass prfRule hpass) (by simp)

/-! ### FEISTEL_INV after FEISTEL_FWD (R201) -/

/-- The stored bytes read back. -/
theorem memRead_of_storedBy {s t : State} {a : Nat} {out : List Byte} {res : Word} (h : s.StoredBy t a out res) :
    t.memRead a out.length = out := by
  obtain ⟨hbytes, _, _⟩ := h
  refine List.ext_getElem (length_memRead t a _) fun i _ hi => ?_
  simp [State.memRead, hbytes i hi, hi]

/-- A region that a success did not store to reads as before. -/
theorem memRead_of_storedBy_disjoint {s t : State} {a : Nat} {out : List Byte} {res : Word} (h : s.StoredBy t a out res)
    {b n : Nat} (hdisj : b + n ≤ a ∨ a + out.length ≤ b) : t.memRead b n = s.memRead b n := by
  obtain ⟨_, houtside, _⟩ := h
  refine List.map_congr_left fun i hi => houtside _ ?_
  have hin : i < n := List.mem_range.1 hi
  omega

theorem storedBy_key_frame {s t : State} {a : Nat} {out : List Byte} {res : Word} (h : s.StoredBy t a out res) :
    t.kaddr = s.kaddr ∧ t.klen = s.klen ∧ t.rounds = s.rounds := by
  obtain ⟨_, _, ht⟩ := h
  rw [ht]
  exact ⟨rfl, rfl, rfl⟩

/-- FEISTEL_INV of a region that holds the forward permutation of `m` under the same key bytes and ROUNDS writes `m`. -/
theorem execFeistelInv_of_feistelFwd {s : State} {m k : List Byte} (hpass : firstError feistelChecks s = none)
    (hregion : s.memRead s.src.toNat s.len.toNat = feistelFwd m k s.rounds.toNat)
    (hkey : s.memRead s.kaddr.toNat s.klen.toNat = k) :
    ∃ u, exec .feistelInv s = .next u ∧ s.StoredBy u s.dst.toNat m s.len := by
  obtain ⟨hrounds, hkeyed⟩ := (feistelChecks_pass_iff s).1 hpass
  obtain ⟨⟨hk, hk'⟩, hsrc, hdst, hkeyIn⟩ := (keyedChecks_pass_iff s).1 hkeyed
  obtain ⟨u, out, hrun, hout, _, hstored⟩ := feistelInvStoresThePermutedRegion s hrounds hk hk' hsrc hdst hkeyIn
  rw [hregion, hkey, feistelInv_feistelFwd] at hout
  exact ⟨u, hrun, hout ▸ hstored⟩

/-- Settles O24: the second command reads the bytes that the first one stored, and the key as the first one read it. -/
theorem feistelCommandsRoundTrip : Obligations.FeistelCommandsRoundTrip := by
  intro s t d hrun hcode hdisj hd
  obtain ⟨hrounds, hkeyed⟩ := (feistelChecks_pass_iff s).1 (firstError_of_errcode_zero hrun hcode)
  obtain ⟨⟨hk, hk'⟩, hsrc, hdst, hkey⟩ := (keyedChecks_pass_iff s).1 hkeyed
  obtain ⟨t, out, hrun', hout, hlen, hstored⟩ :=
    feistelFwdStoresThePermutedRegion s hrounds hk hk' hsrc hdst hkey
  cases hrun.symm.trans hrun'
  obtain ⟨htdst, htlen, _, htcfg, _, _⟩ := storedBy_frame hstored
  obtain ⟨htkaddr, htklen, htrounds⟩ := storedBy_key_frame hstored
  have hkeyBytes : t.memRead t.kaddr.toNat t.klen.toNat = s.memRead s.kaddr.toNat s.klen.toNat := by
    rw [htkaddr, htklen, memRead_of_storedBy_disjoint hstored (by omega)]
  have hregion : t.memRead t.dst.toNat t.len.toNat = out := by
    rw [htdst, htlen, ← hlen, memRead_of_storedBy hstored]
  have hpass : firstError feistelChecks { t with src := t.dst, dst := d } = none :=
    (feistelChecks_pass_iff _).2 ⟨htrounds ▸ hrounds, (keyedChecks_pass_iff _).2
      (by simpa only [htdst, htlen, htcfg, htkaddr, htklen] using ⟨⟨hk, hk'⟩, hdst, hd, hkey⟩)⟩
  rw [← htrounds] at hout
  obtain ⟨u, hexec, hback⟩ := execFeistelInv_of_feistelFwd hpass (hregion.trans hout) hkeyBytes
  obtain ⟨_, _, _, _, hucode, hures⟩ := storedBy_frame hback
  obtain ⟨hbytes, _, _⟩ := hback
  refine ⟨u, hexec, hucode, hures.trans htlen, fun i hi => ?_⟩
  rw [hbytes i (by rwa [length_memRead]), memRead_getD s _ _ i hi]

end Sys2Proof.Machine

/-! # Failed commands, BusErrors and the interrupt output (60_exceptions.md)

Three events report to the host. A failed command is one completion with an error outcome (`errcode_complete_ne_zero`). A
BusError is an access that `route` refuses, characterised for each part of the aperture (`route_register_refused_iff`,
`route_unmapped`, `route_buf_refused_iff`). The interrupt output rises with DONE or with IE, and `step_done_rises` says which
step sets DONE. -/

namespace Sys2Proof.Machine

/-! ### A command that fails (R231) -/

/-- Only an error outcome leaves a nonzero code. -/
theorem errcode_complete_ne_zero {s : State} {r : RunOutcome} (hcode : (s.complete r).errcode ≠ 0x00) :
    ∃ c, r = .err c := by
  cases r with
  | ok ws res => exact absurd rfl hcode
  | err c => exact ⟨c, rfl⟩

/-- The error report is the STATUS update and the engine's way to Idle, and nothing else. -/
theorem complete_err_eq (s : State) (c : ErrorCode) :
    s.complete (.err c) = { s with busy := false, phase := .idle, done := true, err := true, errcode := c.code } := by
  have herr : (c.code != 0x00) = true := bne_iff_ne.2 (code_ne_zero c)
  rw [complete_err, State.finish, herr]

/-- Settles O11. -/
theorem failedCommandReportsAndWritesNothing : Obligations.FailedCommandReportsAndWritesNothing := by
  intro s t hbusy hturn hcode
  rw [engineTurn_busy hbusy] at hturn
  obtain rfl := Host.Outcome.next.inj hturn
  obtain ⟨c, hfails⟩ := errcode_complete_ne_zero hcode
  rw [hfails, complete_err_eq]

/-! ### The causes of a BusError (R233) -/

/-- The registers stand at the multiples of 4 of their range (10_state.md R21). -/
theorem regAt?_eq_none_iff {off : Nat} (h : off < 0x38) : regAt? off = none ↔ off % 4 ≠ 0 := by
  have hall : ∀ x, x < 0x38 → (regAt? x = none ↔ x % 4 ≠ 0) := by decide
  exact hall off h

/-- Cause (2): a register access that is not 32 bits wide or not at a multiple of 4. -/
theorem route_register_refused_iff (c : Config) {off : Nat} (w : Nat) (h : off < 0x38) :
    (∃ e, route c off w = .error e) ↔ w ≠ 4 ∨ off % 4 ≠ 0 := by
  have hreg : off < registerBytes := h
  rw [route, if_pos hreg, ← regAt?_eq_none_iff h]
  cases regAt? off with
  | none => simp
  | some r => by_cases hw : w = 4 <;> simp [hw]

/-- Cause (1): an offset between the registers and BUF, or past BUF. -/
theorem route_unmapped {c : Config} {off : Nat} (w : Nat)
    (h : (0x38 ≤ off ∧ off < 0x8000) ∨ 0x8000 + c.bufBytes ≤ off) : route c off w = .error .unmapped := by
  have hreg : ¬ off < registerBytes := by unfold registerBytes; omega
  rw [route, if_neg hreg]
  by_cases hgap : off < bufWindow
  · rw [if_pos hgap]
  · have hpast : c.bufBytes ≤ off - bufWindow := by unfold bufWindow at *; omega
    rw [if_neg hgap, if_pos hpast]

/-- Cause (3): an access at an offset of BUF that is misaligned or runs past its end. -/
theorem route_buf_refused_iff {c : Config} {off : Nat} (w : Nat) (hlo : 0x8000 ≤ off) (hhi : off < 0x8000 + c.bufBytes) :
    (∃ e, route c off w = .error e) ↔ (off - 0x8000) % w ≠ 0 ∨ c.bufBytes < off - 0x8000 + w := by
  have hreg : ¬ off < registerBytes := by unfold registerBytes; omega
  have hgap : ¬ off < bufWindow := by unfold bufWindow; omega
  have hinside : ¬ c.bufBytes ≤ off - bufWindow := by unfold bufWindow; omega
  rw [route, if_neg hreg, if_neg hgap, if_neg hinside]
  by_cases hok : (off - bufWindow) % w = 0 ∧ off - bufWindow + w ≤ c.bufBytes
  · rw [if_pos hok]
    exact iff_of_false (by simp) (by unfold bufWindow at hok; omega)
  · rw [if_neg hok]
    exact iff_of_true ⟨_, rfl⟩ (by unfold bufWindow at hok; omega)

/-- The three causes put together over every offset. -/
theorem route_refused_iff (c : Config) (off w : Nat) :
    (∃ e, route c off w = .error e) ↔
      (0x38 ≤ off ∧ off < 0x8000) ∨ 0x8000 + c.bufBytes ≤ off ∨ (off < 0x38 ∧ (w ≠ 4 ∨ off % 4 ≠ 0)) ∨
      (0x8000 ≤ off ∧ ((off - 0x8000) % w ≠ 0 ∨ c.bufBytes < off - 0x8000 + w)) := by
  by_cases hreg : off < 0x38
  · rw [route_register_refused_iff c w hreg]
    omega
  by_cases hmapped : 0x8000 ≤ off ∧ off < 0x8000 + c.bufBytes
  · obtain ⟨hlo, hhi⟩ := hmapped
    rw [route_buf_refused_iff w hlo hhi]
    omega
  · have hunmapped : (0x38 ≤ off ∧ off < 0x8000) ∨ 0x8000 + c.bufBytes ≤ off := by omega
    exact iff_of_true ⟨_, route_unmapped w hunmapped⟩ (hunmapped.imp_right .inl)

/-- The block answers with a BusError exactly where the access reaches nothing. -/
theorem hostAccess_busError_iff (s : State) (off : Nat) (op : BusOp) (e : BusCause) :
    (s.hostAccess off op).2 = .busError e ↔ route s.cfg off op.width = .error e := by
  unfold State.hostAccess
  cases route s.cfg off op.width with
  | error e' => simp
  | ok target => cases target <;> cases op.value? <;> simp

/-- Settles O44. -/
theorem busErrorExactlyForItsCauses : Obligations.BusErrorExactlyForItsCauses := by
  intro s off op _
  refine ⟨?_, fun _ => hostAccess_refused⟩
  simp only [hostAccess_busError_iff]
  exact route_refused_iff s.cfg off op.width

/-! ### The interrupt output (R234; 10_state.md R34) -/

/-- No host access sets DONE: a STATUS write and an accept only clear it, and every other access leaves it
(10_state.md R26; 40_control.md R120). -/
theorem hostAccess_done {s : State} {off : Nat} {op : BusOp} (hdone : (s.hostAccess off op).1.done = true) :
    s.done = true := by
  rcases hostAccess_cases s off op with h | ⟨r, v, h⟩ | ⟨_, h⟩ | ⟨_, h⟩ | ⟨_, a, bs, _, h⟩ <;> rw [h] at hdone
  case inr.inl =>
    rcases writeReg_cases s r v with h | h | h | ⟨_, h⟩ | ⟨_, h | h⟩ <;> rw [h] at hdone
    case inr.inr.inl =>
      rw [writeStatus_done, Bool.and_eq_true] at hdone
      exact hdone.1
    case inr.inr.inr.inr.inl => simp at hdone
    all_goals simpa using hdone
  all_goals exact hdone

/-- A host's turn is at most one host access, so it does not set DONE either. -/
theorem hostTurn_done {s : State} {h k : Nat} (hdone : (s.hostTurn h k).done = true) : s.done = true :=
  hostTurn_relates (fun a b => b.done = true → a.done = true) (fun _ h => h) (fun _ _ _ hab hbc hc => hab (hbc hc))
    (fun _ _ _ h => h) (fun _ _ _ => hostAccess_done) s h k hdone

/-- The turn of an idle engine is no event (10_state.md R32). -/
theorem engineTurn_idle {s : State} (hidle : s.phase = .idle) : engineTurn s = .next s := by
  simp only [engineTurn, hidle]

/-- DONE is set by nothing but the completion of a command. -/
theorem step_done_rises {s t : State} (hstep : step s = .next t) (hdone : t.done = true) :
    s.done = true ∨ (s.phase = .busy ∧ t.phase = .idle) := by
  obtain ⟨s₀, rfl, hmove⟩ := step_cases hstep
  rcases hmove with ⟨h, k, rfl⟩ | hturn | rfl | rfl
  case inl => exact .inl (hostTurn_done (s := { s with schedule := s.schedule.tail }) hdone)
  case inr.inl =>
    cases hphase : s.phase with
    | idle =>
      rw [engineTurn_idle (s := { s with schedule := s.schedule.tail }) hphase] at hturn
      cases hturn
      exact .inl hdone
    | busy =>
      rw [engineTurn_busy (s := { s with schedule := s.schedule.tail }) hphase] at hturn
      cases hturn
      obtain ⟨_, hidle, _⟩ := complete_flags { s with schedule := s.schedule.tail } _
      exact .inr ⟨rfl, hidle⟩
  case inr.inr.inl => simp at hdone
  case inr.inr.inr => exact .inl hdone

/-- Settles O43: where IRQ rises and DONE does not, it was IE that was 0. -/
theorem irqRisesOnlyByCompletionOrEnable : Obligations.IrqRisesOnlyByCompletionOrEnable := by
  intro s t hstep hlow hhigh
  rw [State.irq, Bool.and_eq_true] at hhigh
  obtain ⟨hie, hdone⟩ := hhigh
  rcases step_done_rises hstep hdone with hwas | ⟨hbusy, hidle⟩
  · rw [State.irq, hwas, Bool.and_true] at hlow
    exact .inr ⟨hwas, hdone, hlow, hie⟩
  · exact .inl ⟨hbusy, hidle, hdone⟩

end Sys2Proof.Machine

/-! # Reset and the barrier (70_reset_and_hazards.md)

A barrier holds items back through `deliverable` alone: no item but the oldest may be next where the program has a barrier up
to it. The commands of R262 are placed words (`step_withFetchWord_encode`): CRC32 has an empty source, and RADIX_B2D fails
its first check, BASE being 0. -/

namespace Sys2Proof.Machine

/-! ### The barrier (R267; 20_memory.md R72) -/

theorem deliverable_eq_false_of_barrier {hostOrder : Bool} {p : List HostItem} {j k : Nat} (hjk : j ≤ k) (hk : 0 < k)
    (hbarrier : p[j]? = some .barrier) : deliverable hostOrder p k = false := by
  have hprefix : HostItem.barrier ∈ p.take (k + 1) := by
    refine List.mem_of_getElem? (i := j) ?_
    rw [List.getElem?_take_of_lt (Nat.lt_succ_of_le hjk), hbarrier]
  have hany : (p.take (k + 1)).any HostItem.isBarrier = true := List.any_eq_true.2 ⟨_, hprefix, rfl⟩
  simp [deliverable, hany, hk.ne']

/-- Settles O51: a turn that does something performs an item that may be next. -/
theorem nothingPassesABarrier : Obligations.NothingPassesABarrier := by
  intro s h j k p hp hjk hk hbarrier
  rcases hostTurn_cases s h k with hstay | ⟨p', item, hp', _, hdel, _⟩
  · exact hstay
  · obtain rfl : p = p' := Option.some.inj (hp.symm.trans hp')
    rw [deliverable_eq_false_of_barrier hjk hk hbarrier] at hdel
    cases hdel

/-! ### The reset event (R260, R261) -/

/-- Every byte of BUF after a reset is the free value of this reset. -/
theorem bufByte_resetEvent (s : State) (a : Nat) :
    s.resetEvent.bufByte a = Config.resetByte (s.resets + 1) a := by
  rw [State.bufByte, resetEvent_buf, resetEvent_resets, lookup_nil, Option.getD_none]

/-- IRQ is low after a reset, since IE is 0 (10_state.md R34). -/
theorem irq_resetEvent (s : State) : s.resetEvent.irq = false := by
  rw [State.irq, resetEvent_ie, Bool.false_and]

/-- Settles O55. -/
theorem resetEventSetsTheResetValues : Obligations.ResetEventSetsTheResetValues := by
  intro s rest hsched
  have hstep : step s = .next { s with schedule := rest }.resetEvent := step_of_turn hsched
  exact ⟨_, hstep, rfl, bufByte_resetEvent _, irq_resetEvent _⟩

/-! ### Commands right after reset (R262) -/

/-- A command's own word, placed, is the next to run. -/
theorem step_withFetchWord_encode (s : State) (i : Instr) :
    step (s.withFetchWord 32 (encode i).toNat) = exec i (s.withFetchWord 32 (encode i).toNat) :=
  placedWordRunsNext s 32 (encode i).toNat i (decodeTableWord_encode i)

/-- The CRC of the empty string (41_crc32.md R141). -/
theorem crc32_nil : crc32 [] = 0 := by decide

/-- CRC32 of an empty source succeeds with the CRC of the empty string (41_crc32.md R142). -/
theorem exec_crc32_emptySource {s : State} (hlen : s.len.toNat = 0) (hsrc : s.src.toNat ≤ s.cfg.bufBytes) :
    ∃ t, exec .crc32 s = .next t ∧ t.result = 0 ∧ t.errcode = 0x00 := by
  refine ⟨_, crc32PutsTheChecksumInResult s (by omega), ?_, rfl⟩
  show crc32 (s.memRead s.src.toNat s.len.toNat) = 0
  rw [hlen]
  exact crc32_nil

/-- RADIX_B2D checks its base before everything else (42_radix.md R165; 40_control.md R126). -/
theorem exec_radixB2d_smallBase {s : State} (hbase : s.base.toNat < 2) :
    ∃ t, exec .radixB2d s = .next t ∧ t.errcode = 0x02 := by
  refine ⟨_, exec_eq_complete .radixB2d s, ?_⟩
  rw [complete_runOf_errcode, checksOf, radixB2dChecks, reportedCode_checkBase, if_pos (by omega)]

/-- Settles O56: reset leaves LEN, SRC and BASE at 0. -/
theorem commandsRightAfterReset : Obligations.CommandsRightAfterReset := by
  intro c
  have hcrc : step ((State.resetOf c).withFetchWord 32 0x10) = exec .crc32 ((State.resetOf c).withFetchWord 32 0x10) :=
    step_withFetchWord_encode (State.resetOf c) .crc32
  have hradix : step ((State.resetOf c).withFetchWord 32 0x30) =
      exec .radixB2d ((State.resetOf c).withFetchWord 32 0x30) :=
    step_withFetchWord_encode (State.resetOf c) .radixB2d
  obtain ⟨t, hsucceeds, hresult, hok⟩ :=
    exec_crc32_emptySource (s := (State.resetOf c).withFetchWord 32 0x10) rfl (Nat.zero_le c.bufBytes)
  obtain ⟨u, hfails, hcode⟩ := exec_radixB2d_smallBase (s := (State.resetOf c).withFetchWord 32 0x30) Nat.two_pos
  exact ⟨t, u, hcrc.trans hsucceeds, hresult, hok, hradix.trans hfails, hcode⟩

end Sys2Proof.Machine
